-- ==== Sys2Proof/Word.lean ====
section
/-! DEFINITION. The two word types of the block (00_scope.md R8): a byte and a command word, both unsigned. -/

namespace Sys2Proof

/-- A byte: an unsigned integer in 0..255 (R8, R7 `BYTE`). -/
abbrev Byte := BitVec 8

/-- A command word: an unsigned 32-bit integer (R8, R7 `CMD_WIDTH`). -/
abbrev Word := BitVec 32

end Sys2Proof
end

