-- ==== Sys2Proof/Config.lean ====
section
/-! DEFINITION. The parameters of the block (00_scope.md R7). The spec fixes every one of them ("None is left open"),
so the model has no free value. `TX_CAPACITY` is unbounded, which is the type of `State.tx`; `FRAME_SLOTS` is 1, which
is the one field `State.fr`; `VIEW_ADDR_WIDTH` is 10, which is the type of `viewRead`'s offset. -/

namespace Sys2Proof.Config

/-- `MAX_PAYLOAD`, 253 bytes: the one-byte length field holds payload length + 2 (R7; 90_conflicts.md C1). -/
def maxPayload : Nat := 253

/-- `STAGING_CAP`, equal to `MAX_PAYLOAD` (R7, R26). -/
def stagingCap : Nat := maxPayload

/-- `ACK_BYTE` (R7, R112). -/
def ackByte : Byte := 0xE5

/-- `NACK_BYTE` (R7, R112). -/
def nackByte : Byte := 0xA2

/-- `SHORT_START` (R7, R120). -/
def shortStart : Byte := 0x10

/-- `LONG_START` (R7, R132). -/
def longStart : Byte := 0x68

/-- `STOP` (R7, R120, R132). -/
def stop : Byte := 0x16

end Sys2Proof.Config
end

