-- ==== Sys2Proof/Syntax.lean ====
section
/-! DEFINITION. The nine commands of MBF-CMD v1 (30_encoding.md R73), one constructor per row of
spec/opcode_table.json, in the table's order. An operand is the whole byte it is encoded in (R72). -/

namespace Sys2Proof

/-- A command with its operands, as `decode` answers it (R75). -/
inductive Instr where
  /-- ACK_NEW (R110). -/
  | ackNew
  /-- NACK_NEW (R111). -/
  | nackNew
  /-- SHORT_NEW c, a: control and address byte (R120). -/
  | shortNew (c a : Byte)
  /-- PAYLOAD_CLEAR (R130). -/
  | payloadClear
  /-- PAYLOAD_PUSH b (R131). -/
  | payloadPush (b : Byte)
  /-- LONG_NEW c, a: control and address byte (R132). -/
  | longNew (c a : Byte)
  /-- ENCODE (R151). -/
  | encode
  /-- FIELD_WRITE f, v: field-select code, whole byte, and new value (R160). -/
  | fieldWrite (f v : Byte)
  /-- PAYLOAD_WRITE i, v: payload index, whole byte, and new value (R161). -/
  | payloadWrite (i v : Byte)
deriving DecidableEq, Repr

end Sys2Proof
end

