-- ==== Sys2Proof/WellFormed.lean ====
section
/-! DEFINITION. What makes a command well formed. The spec has two checks on a command as it is written down:
its reserved operand bytes are zero (30_encoding.md R72, R74), which is a check on a word's bytes; and the value of an
operand, which R72 leaves unrestricted, so that no value of type `Instr` is ill formed. Whether a field-select code or
a payload index is valid depends on the state and is decided at execution (R72, R160, R161). -/

namespace Sys2Proof

/-- The three operand forms of the one format (R72). -/
inductive OperandForm where
  /-- CMD-0: no operands; B1, B2 and B3 are zero. -/
  | cmd0
  /-- CMD-1: B1 is an operand; B2 and B3 are zero. -/
  | cmd1
  /-- CMD-2: B1 and B2 are operands; B3 is zero. -/
  | cmd2
deriving DecidableEq, Repr

/-- The bytes that a form reserves are zero (R72, R74). -/
def OperandForm.reservedZero (form : OperandForm) (b1 b2 b3 : Byte) : Bool :=
  match form with
  | .cmd0 => b1 == 0 && b2 == 0 && b3 == 0
  | .cmd1 => b2 == 0 && b3 == 0
  | .cmd2 => b3 == 0

/-- The operand form of each command (R72, R73). -/
def Instr.form : Instr → OperandForm
  | .ackNew => .cmd0
  | .nackNew => .cmd0
  | .shortNew _ _ => .cmd2
  | .payloadClear => .cmd0
  | .payloadPush _ => .cmd1
  | .longNew _ _ => .cmd2
  | .encode => .cmd0
  | .fieldWrite _ _ => .cmd2
  | .payloadWrite _ _ => .cmd2

/-- The two operand bytes B1 and B2 of a command, a byte the form reserves being 0x00 (R72). -/
def Instr.operands : Instr → Byte × Byte
  | .ackNew => (0, 0)
  | .nackNew => (0, 0)
  | .shortNew c a => (c, a)
  | .payloadClear => (0, 0)
  | .payloadPush b => (b, 0)
  | .longNew c a => (c, a)
  | .encode => (0, 0)
  | .fieldWrite f v => (f, v)
  | .payloadWrite i v => (i, v)

/-- A command is well formed when the bytes its form reserves are zero in what is encoded for it. -/
def Instr.wellFormed (i : Instr) : Bool :=
  i.form.reservedZero i.operands.1 i.operands.2 0

end Sys2Proof
end

