-- ==== Sys2Proof/Decode.lean ====
section
/-! DEFINITION. The command encoding (30_encoding.md R70 to R75): the four byte fields of a word, the decoder, total on
every word and on every byte list, the encoder written from the same opcode map, and the opcode map's match and mask
columns (R73). -/

namespace Sys2Proof

/-- `OP = w[31:24]` (R70). -/
def opByte (w : Word) : Byte := w.extractLsb' 24 8

/-- `B1 = w[23:16]` (R70). -/
def byte1 (w : Word) : Byte := w.extractLsb' 16 8

/-- `B2 = w[15:8]` (R70). -/
def byte2 (w : Word) : Byte := w.extractLsb' 8 8

/-- `B3 = w[7:0]` (R70). -/
def byte3 (w : Word) : Byte := w.extractLsb' 0 8

/-- The word `OP : B1 : B2 : B3` (R70). -/
def packWord (op b1 b2 b3 : Byte) : Word := op ++ b1 ++ b2 ++ b3

/-- Why the decoder answers ILLEGAL (R74). The machine makes no difference between the reasons: each raises
ILLEGAL_COMMAND (R203). -/
inductive DecodeError where
  /-- `OP` is 0x00 or in 0x0A..0xFF. -/
  | reservedOpcode
  /-- `OP` is assigned, but a bit outside its operand fields is not zero. -/
  | reservedBits
  /-- Fewer than four bytes were given, so there is no word; only `decodeBytes` answers it, never the machine,
  whose port takes whole words (R71). -/
  | partialWord
deriving DecidableEq, Repr

/-- The command `i` if the word's reserved bytes are zero, as `i`'s form has them (R72, R75). -/
def acceptForm (w : Word) (i : Instr) : Except DecodeError Instr :=
  if i.form.reservedZero (byte1 w) (byte2 w) (byte3 w) then .ok i else .error .reservedBits

/-- `decode` (R75): every 32-bit word is a command with its operands, or illegal. It reads nothing but `w`. -/
def decode (w : Word) : Except DecodeError Instr :=
  match opByte w with
  | 0x01#8 => acceptForm w .ackNew
  | 0x02#8 => acceptForm w .nackNew
  | 0x03#8 => acceptForm w (.shortNew (byte1 w) (byte2 w))
  | 0x04#8 => acceptForm w .payloadClear
  | 0x05#8 => acceptForm w (.payloadPush (byte1 w))
  | 0x06#8 => acceptForm w (.longNew (byte1 w) (byte2 w))
  | 0x07#8 => acceptForm w .encode
  | 0x08#8 => acceptForm w (.fieldWrite (byte1 w) (byte2 w))
  | 0x09#8 => acceptForm w (.payloadWrite (byte1 w) (byte2 w))
  | _ => .error .reservedOpcode

/-- The opcode of each command (R73). -/
def Instr.opcode : Instr → Byte
  | .ackNew => 0x01
  | .nackNew => 0x02
  | .shortNew _ _ => 0x03
  | .payloadClear => 0x04
  | .payloadPush _ => 0x05
  | .longNew _ _ => 0x06
  | .encode => 0x07
  | .fieldWrite _ _ => 0x08
  | .payloadWrite _ _ => 0x09

/-- The word of a command: its opcode, its operand bytes, and B3 = 0x00 (R70, R72, R73). -/
def encode (i : Instr) : Word := packWord i.opcode i.operands.1 i.operands.2 0

/-- The `match` column of the opcode map (R73). -/
def Instr.rowMatch : Instr → Word
  | .ackNew => 0x01000000
  | .nackNew => 0x02000000
  | .shortNew _ _ => 0x03000000
  | .payloadClear => 0x04000000
  | .payloadPush _ => 0x05000000
  | .longNew _ _ => 0x06000000
  | .encode => 0x07000000
  | .fieldWrite _ _ => 0x08000000
  | .payloadWrite _ _ => 0x09000000

/-- The `mask` column of the opcode map (R73). -/
def Instr.rowMask : Instr → Word
  | .ackNew => 0xFFFFFFFF
  | .nackNew => 0xFFFFFFFF
  | .shortNew _ _ => 0xFF0000FF
  | .payloadClear => 0xFFFFFFFF
  | .payloadPush _ => 0xFF00FFFF
  | .longNew _ _ => 0xFF0000FF
  | .encode => 0xFFFFFFFF
  | .fieldWrite _ _ => 0xFF0000FF
  | .payloadWrite _ _ => 0xFF0000FF

/-- The four bytes that carry a word, the opcode byte first (20_memory.md R52). -/
def wordBytes (w : Word) : List Byte := [opByte w, byte1 w, byte2 w, byte3 w]

/-- The first command of a byte stream that carries words big-endian (R52), with the bytes after it. -/
def decodeBytes : List Byte → Except DecodeError (Instr × List Byte)
  | op :: b1 :: b2 :: b3 :: rest =>
    match decode (packWord op b1 b2 b3) with
    | .ok i => .ok (i, rest)
    | .error e => .error e
  | _ => .error .partialWord

/-- The command read from an instruction whose bits are `w`, numbered as spec/opcode_table.json numbers them, bit 0
being the least significant bit of the 32-bit word; bits at or above `nbits` are zero. -/
def decodeTableWord (nbits w : Nat) : Option Instr :=
  match decodeBytes (wordBytes (BitVec.ofNat 32 (w % 2 ^ nbits))) with
  | .ok (i, _) => some i
  | .error _ => none

end Sys2Proof
end

