-- ==== Sys2Proof/Machine/State.lean ====
section
/-! DEFINITION. The state of the block (10_state.md) as plain data, the reasons a step can stop, and the state after
reset (R48). Beside the block's own registers State carries the issuer's program and index (R45), because the host's
`step` takes no input: DESIGN CHOICE, notes/assumptions/1.md. -/

namespace Sys2Proof.Machine

/-- The kind tag of the frame register (R21). Codes 5 to 7 are never held, so they have no constructor. -/
inductive Kind where
  | none | ack | nack | short | long
deriving DecidableEq, Repr

/-- The eight scalar fields of the frame register (R22). -/
inductive FieldName where
  | start | length | lengthRepeat | startRepeat | control | address | checksum | stop
deriving DecidableEq, Repr

/-- The fault causes that can be raised (60_exceptions.md R200). -/
inductive Cause where
  | illegalCommand | payloadOverflow | noFrame | badField | badIndex
deriving DecidableEq, Repr

/-- The frame register FR (R21, R22): its kind, its eight one-byte fields and its payload. Equality is by value (R49). -/
structure FrameReg where
  kind : Kind
  start : Byte
  length : Byte
  lengthRepeat : Byte
  startRepeat : Byte
  control : Byte
  address : Byte
  checksum : Byte
  stop : Byte
  payload : List Byte
deriving DecidableEq, Repr

/-- The state: FR (R21), the staging buffer SB (R26), the fault latch FAULT, CAUSE and FCMD (R30 to R32), the transmit
log TX (R35), and the issuer's program and index (R45). -/
structure State where
  fr : FrameReg
  sb : List Byte
  fault : Bool
  cause : Byte
  fcmd : Word
  tx : List (List Byte)
  prog : List Word
  pc : Nat
deriving DecidableEq, Repr

/-- Why the machine stops. -/
inductive Fault where
  /-- Raised by `step` and `react` alone, when FAULT = 1: the halted block has no step for any word (R204). It is the
  spec's own stuck state, lifted only by reset. Safe: it is what the spec says. -/
  | halted
deriving DecidableEq, Repr

/-- Why a step has no meaning. -/
inductive Refusal where
  /-- Raised by no arm of `exec`: every command has its meaning. Safe. -/
  | notModelled (mnemonic : String)
deriving DecidableEq, Repr

/-- The empty frame register: kind NONE, every field 0x00, payload [] (R48). -/
def FrameReg.reset : FrameReg where
  kind := .none
  start := 0
  length := 0
  lengthRepeat := 0
  startRepeat := 0
  control := 0
  address := 0
  checksum := 0
  stop := 0
  payload := []

/-- The state right after reset (R48), the issuer's index at 0 (R45). No program is loaded: the block waits for its
first command (70_reset_and_hazards.md R232); DESIGN CHOICE, notes/assumptions/1.md. -/
def State.reset : State where
  fr := FrameReg.reset
  sb := []
  fault := false
  cause := 0
  fcmd := 0
  tx := []
  prog := []
  pc := 0

end Sys2Proof.Machine
end

