-- ==== Sys2Proof/Machine/Operands.lean ====
section
/-! DEFINITION. The operand forms that select state: kind codes, field-select codes and field membership
(10_state.md R21, R22), the read and the write of one field, and the check of a payload index (R161). -/

namespace Sys2Proof.Machine

/-- The 3-bit code of a kind (R21), as the byte the view shows it in (R40). -/
def Kind.code : Kind → Byte
  | .none => 0
  | .ack => 1
  | .nack => 2
  | .short => 3
  | .long => 4

/-- The field-select code of a field (R22). -/
def FieldName.code : FieldName → Byte
  | .start => 0
  | .length => 1
  | .lengthRepeat => 2
  | .startRepeat => 3
  | .control => 4
  | .address => 5
  | .checksum => 6
  | .stop => 7

/-- The field a whole operand byte selects; a code of 8 or more selects none (R22, R160). -/
def FieldName.ofCode? (f : Byte) : Option FieldName :=
  match f with
  | 0#8 => some .start
  | 1#8 => some .length
  | 2#8 => some .lengthRepeat
  | 3#8 => some .startRepeat
  | 4#8 => some .control
  | 5#8 => some .address
  | 6#8 => some .checksum
  | 7#8 => some .stop
  | _ => Option.none

/-- The membership column of R22, which is `valid(kind)` of R160. -/
def Kind.hasField : Kind → FieldName → Bool
  | .short, .start => true
  | .short, .control => true
  | .short, .address => true
  | .short, .checksum => true
  | .short, .stop => true
  | .short, _ => false
  | .long, _ => true
  | _, _ => false

/-- The field that FIELD_WRITE's operand `f` selects in a frame of this kind, if `f` is in `valid(kind)` (R160). -/
def Kind.selectField (k : Kind) (f : Byte) : Option FieldName :=
  match FieldName.ofCode? f with
  | some fld => if k.hasField fld then some fld else Option.none
  | Option.none => Option.none

/-- The value of one scalar field. -/
def FrameReg.get (fr : FrameReg) : FieldName → Byte
  | .start => fr.start
  | .length => fr.length
  | .lengthRepeat => fr.lengthRepeat
  | .startRepeat => fr.startRepeat
  | .control => fr.control
  | .address => fr.address
  | .checksum => fr.checksum
  | .stop => fr.stop

/-- The write of one scalar field, and of nothing else (R160, R162). -/
def FrameReg.put (fr : FrameReg) (fld : FieldName) (v : Byte) : FrameReg :=
  match fld with
  | .start => { fr with start := v }
  | .length => { fr with length := v }
  | .lengthRepeat => { fr with lengthRepeat := v }
  | .startRepeat => { fr with startRepeat := v }
  | .control => { fr with control := v }
  | .address => { fr with address := v }
  | .checksum => { fr with checksum := v }
  | .stop => { fr with stop := v }

/-- PAYLOAD_WRITE's operand `i` names a payload byte: FR is LONG and `i < PLEN` (R161). -/
def FrameReg.hasIndex (fr : FrameReg) (i : Byte) : Bool :=
  fr.kind == .long && decide (i.toNat < fr.payload.length)

/-- The write of one payload byte in place; the length stays (R161, R163). -/
def FrameReg.putPayload (fr : FrameReg) (i v : Byte) : FrameReg :=
  { fr with payload := fr.payload.set i.toNat v }

end Sys2Proof.Machine
end

