-- ==== Sys2Proof/Machine/Ops.lean ====
section
/-! DEFINITION. The operations the commands share: presenting a word (10_state.md R45), completing a command (R45),
TAKING A FAULT (60_exceptions.md R201) and reset, the only way out of one (70_reset_and_hazards.md R230), and the writes
of the frame register, the staging buffer and the transmit log (R35). -/

namespace Sys2Proof.Machine

/-- What a step answers. -/
abbrev Outcome := Host.Outcome State Fault Refusal

/-- The word `prog[pc]` that the issuer presents next, none when `pc` is at or past the end (R45). -/
def State.presented (s : State) : Option Word := s.prog[s.pc]?

/-- The code of a cause (R200). -/
def Cause.code : Cause → Byte
  | .illegalCommand => 0x01
  | .payloadOverflow => 0x02
  | .noFrame => 0x03
  | .badField => 0x04
  | .badIndex => 0x05

/-- The three writes of a fault (R201). -/
def State.latch (s : State) (c : Cause) (w : Word) : State :=
  { s with fault := true, cause := c.code, fcmd := w }

/-- `raise Fault(c)` during a command with word `w` (R201): the latch is written, nothing else changes, and `pc` does not
advance (R45). It ends the command in a next state; the halt shows at the next step (R204). -/
def raiseFault (c : Cause) (w : Word) (s : State) : Outcome := .next (s.latch c w)

/-- A command that faulted on nothing ends here: `pc <- pc + 1` (R45). -/
def complete (s : State) : Outcome := .next { s with pc := s.pc + 1 }

/-- `FR <- fr`: a construction command writes every field and the payload (R23). -/
def State.setFrame (s : State) (fr : FrameReg) : State := { s with fr := fr }

/-- `SB <- sb` (R26). -/
def State.setStaging (s : State) (sb : List Byte) : State := { s with sb := sb }

/-- `emit(bytes)`: TX gains the bytes as one new frame (R35). It never waits and never fails (R36). -/
def State.emit (s : State) (bytes : List Byte) : State := { s with tx := s.tx ++ [bytes] }

/-- Reset (R230): every piece of the block's state to its value in R48, and the issuer's index to 0, the start of a new
run. The program is the issuer's and is kept; `loadProgram` changes it. -/
def assertReset (s : State) : State :=
  { s with fr := FrameReg.reset, sb := [], fault := false, cause := 0, fcmd := 0, tx := [], pc := 0 }

/-- The issuer takes up a program; its index is 0 at the start of a run (R45). The block is not touched. -/
def loadProgram (prog : List Word) (s : State) : State := { s with prog := prog, pc := 0 }

/-- The issuer's program with the word `w` at its index, every other word kept; words missing before the index are made
0x00000000, which happens only where `pc` is past the end of the program, a state no run reaches. -/
def State.presentWord (s : State) (w : Word) : State :=
  { s with prog := s.prog.take s.pc ++ List.replicate (s.pc - s.prog.length) 0 ++ w :: s.prog.drop (s.pc + 1) }

end Sys2Proof.Machine
end

