-- ==== Sys2Proof/Machine/AckNack.lean ====
section
/-! DEFINITION. ACK_NEW and NACK_NEW (41_ack_nack.md R110, R111): frames without fields. -/

namespace Sys2Proof.Machine

/-- A frame of a kind with no fields: every scalar 0x00 and the payload [] (R23, R110, R111). -/
def bareFrame (k : Kind) : FrameReg := { FrameReg.reset with kind := k }

/-- The Ack frame (R110). -/
def ackFrame : FrameReg := bareFrame .ack

/-- The Nack frame (R111). -/
def nackFrame : FrameReg := bareFrame .nack

/-- ACK_NEW (R110). -/
def execAckNew (s : State) : Outcome := complete (s.setFrame ackFrame)

/-- NACK_NEW (R111). -/
def execNackNew (s : State) : Outcome := complete (s.setFrame nackFrame)

end Sys2Proof.Machine
end

