-- ==== Sys2Proof/Machine/FieldAccess.lean ====
section
/-! DEFINITION. FIELD_WRITE and PAYLOAD_WRITE (45_field_access.md R160 to R163): stored fields are overwritten and no
derived field is updated. -/

namespace Sys2Proof.Machine

/-- FIELD_WRITE f, v (R160). -/
def execFieldWrite (f v : Byte) (s : State) : Outcome :=
  match s.fr.kind.selectField f with
  | some fld => complete (s.setFrame (s.fr.put fld v))
  | Option.none => raiseFault .badField (encode (.fieldWrite f v)) s

/-- PAYLOAD_WRITE i, v (R161). -/
def execPayloadWrite (i v : Byte) (s : State) : Outcome :=
  if s.fr.hasIndex i then complete (s.setFrame (s.fr.putPayload i v))
  else raiseFault .badIndex (encode (.payloadWrite i v)) s

end Sys2Proof.Machine
end

