-- ==== Sys2Proof/Machine/Flags.lean ====
section
/-! DEFINITION. The checksum generator (40_checksum.md R100, R101) and the block's one flag as it is read. The block has
no condition code and no carry: the carry out of bit 7 is lost (10_state.md R33, R101). -/

namespace Sys2Proof.Machine

/-- `wadd8(x, y) = (x + y) mod 256` (R100); the carry is recorded nowhere (R101). -/
def wadd8 (x y : Byte) : Byte := BitVec.ofNat 8 ((x.toNat + y.toNat) % 256)

/-- `sum8` (R100): the fold of `wadd8` over the bytes from an accumulator of 0x00. -/
def sum8 (s : List Byte) : Byte := s.foldl wadd8 0

/-- STATUS as the view shows it: bit 0 is FAULT, bits 7:1 are 0 (R40). -/
def statusByte (s : State) : Byte := if s.fault then 1 else 0

end Sys2Proof.Machine
end

