-- ==== Sys2Proof/Machine/Long.lean ====
section
/-! DEFINITION. Payload staging and LONG_NEW (43_long.md R130 to R133). -/

namespace Sys2Proof.Machine

/-- The declared length of a payload of `n` bytes, `n + 2` (R133). It fits the byte for every `n` up to 253, which is
every `n` a run reaches (R26); beyond, in states no run reaches, it is taken modulo 256 (notes/assumptions/8.md). -/
def lengthByte (n : Nat) : Byte := BitVec.ofNat 8 (n + 2)

/-- The Long frame of a control byte, an address byte and a payload (R132). -/
def longFrame (c a : Byte) (p : List Byte) : FrameReg where
  kind := .long
  start := Config.longStart
  length := lengthByte p.length
  lengthRepeat := lengthByte p.length
  startRepeat := Config.longStart
  control := c
  address := a
  checksum := sum8 ([c, a] ++ p)
  stop := Config.stop
  payload := p

/-- PAYLOAD_CLEAR (R130). -/
def execPayloadClear (s : State) : Outcome := complete (s.setStaging [])

/-- PAYLOAD_PUSH b (R131): the fault check comes before the write (R202). -/
def execPayloadPush (b : Byte) (s : State) : Outcome :=
  if s.sb.length = Config.stagingCap then raiseFault .payloadOverflow (encode (.payloadPush b)) s
  else complete (s.setStaging (s.sb ++ [b]))

/-- LONG_NEW c, a (R132): the staged payload moves into FR and SB is left empty. -/
def execLongNew (c a : Byte) (s : State) : Outcome :=
  complete ((s.setFrame (longFrame c a s.sb)).setStaging [])

end Sys2Proof.Machine
end

