-- ==== Sys2Proof/Machine/Serialise.lean ====
section
/-! DEFINITION. The serialisation function and ENCODE (44_encode.md R150, R151), the wire (10_state.md R35), and what a
frame's bytes tell a receiver (30_encoding.md R76). -/

namespace Sys2Proof.Machine

/-- `ser` (R150, with the layouts R112, R121 and R134): the stored fields, verbatim. It is not applied to NONE. -/
def ser (fr : FrameReg) : Option (List Byte) :=
  match fr.kind with
  | .none => Option.none
  | .ack => some [Config.ackByte]
  | .nack => some [Config.nackByte]
  | .short => some [fr.start, fr.control, fr.address, fr.checksum, fr.stop]
  | .long =>
    some ([fr.start, fr.length, fr.lengthRepeat, fr.startRepeat, fr.control, fr.address] ++ fr.payload ++
      [fr.checksum, fr.stop])

/-- ENCODE (R151): NO_FRAME where FR is NONE, else the frame's bytes are emitted. -/
def execEncode (s : State) : Outcome :=
  match ser s.fr with
  | Option.none => raiseFault .noFrame (encode .encode) s
  | some bytes => complete (s.emit bytes)

/-- The bytes on the wire, `TX[0] ++ TX[1] ++ ...` (R35), which the transport takes in order (R36). -/
def State.wire (s : State) : List Byte := s.tx.flatten

/-- The kind and the total length that R76's table reads from a frame's first bytes. -/
def wireShape : List Byte → Option (Kind × Nat)
  | [] => Option.none
  | b :: rest =>
    if b = Config.ackByte then some (.ack, 1)
    else if b = Config.nackByte then some (.nack, 1)
    else if b = Config.shortStart then some (.short, 5)
    else if b = Config.longStart then
      match rest with
      | l :: _ => some (.long, l.toNat + 6)
      | [] => Option.none
    else Option.none

end Sys2Proof.Machine
end

