-- ==== Sys2Proof/Machine/Short.lean ====
section
/-! DEFINITION. SHORT_NEW (42_short.md R120). -/

namespace Sys2Proof.Machine

/-- The Short frame of a control and an address byte (R120); the LONG-only fields are 0x00 (R23). -/
def shortFrame (c a : Byte) : FrameReg where
  kind := .short
  start := Config.shortStart
  length := 0
  lengthRepeat := 0
  startRepeat := 0
  control := c
  address := a
  checksum := sum8 [c, a]
  stop := Config.stop
  payload := []

/-- SHORT_NEW c, a (R120). SB is left as it was. -/
def execShortNew (c a : Byte) (s : State) : Outcome := complete (s.setFrame (shortFrame c a))

end Sys2Proof.Machine
end

