-- ==== Sys2Proof/Machine/Dispatch.lean ====
section
/-! DEFINITION. `execute cmd` of the step (60_exceptions.md R202): one arm per command. The checks before it, a latched
FAULT and an illegal word, are `acceptWord`'s. -/

namespace Sys2Proof.Machine

def exec (i : Instr) (s : State) : Host.Outcome State Fault Refusal :=
  match i with
  | .ackNew => Sys2Proof.Machine.execAckNew s
  | .nackNew => Sys2Proof.Machine.execNackNew s
  | .shortNew c a => Sys2Proof.Machine.execShortNew c a s
  | .payloadClear => Sys2Proof.Machine.execPayloadClear s
  | .payloadPush b => Sys2Proof.Machine.execPayloadPush b s
  | .longNew c a => Sys2Proof.Machine.execLongNew c a s
  | .encode => Sys2Proof.Machine.execEncode s
  | .fieldWrite f v => Sys2Proof.Machine.execFieldWrite f v s
  | .payloadWrite k v => Sys2Proof.Machine.execPayloadWrite k v s

end Sys2Proof.Machine
end

