-- ==== Sys2Proof/Machine/Command.lean ====
section
/-! DEFINITION. The command port: the block's step on a presented word with its checks in order (60_exceptions.md R202,
R205), the issuer that presents its program one word at a time (10_state.md R45), and the environment's two events,
a command or a reset, which are all that changes the state (R20). -/

namespace Sys2Proof.Machine

/-- The block takes the word `w` with FAULT = 0: an illegal word faults with ILLEGAL_COMMAND (R203), a legal one is
executed (R202). -/
def acceptWord (w : Word) (s : State) : Outcome :=
  match decode w with
  | .error _ => raiseFault .illegalCommand w s
  | .ok i => exec i s

/-- The block's step on the presented word `w` (R202): with FAULT = 1 there is no step for any word (R204). -/
def stepWord (w : Word) (s : State) : Outcome :=
  if s.fault then .fault .halted else acceptWord w s

/-- The issuer presents `prog[pc]`. Where no word is presented the block is idle and its state does not change
(R215, R232); DESIGN CHOICE, notes/assumptions/2.md. -/
def stepIssuer (s : State) : Outcome :=
  if s.fault then .fault .halted
  else match s.presented with
    | some w => acceptWord w s
    | Option.none => .next s

/-- What the environment can do to the block between commands (R20, R230). -/
inductive Event where
  /-- A word is presented on the command port. -/
  | command (w : Word)
  /-- Reset is asserted. -/
  | reset
deriving DecidableEq, Repr

/-- The block's answer to an event: the step on a word (R202), or reset, which no state refuses (R230). -/
def react (e : Event) (s : State) : Outcome :=
  match e with
  | .command w => stepWord w s
  | .reset => .next (assertReset s)

/-- The words are presented one after another, each when the one before it has ended (20_memory.md R60); a halted block
takes none (R204). -/
def presentAll : List Word → State → Outcome
  | [], s => .next s
  | w :: ws, s =>
    match stepWord w s with
    | .next t => presentAll ws t
    | .fault r => .fault r
    | .refused r => .refused r

end Sys2Proof.Machine
end

