-- ==== Sys2Proof/Machine/Step.lean ====
section
/-! DEFINITION. The host's step: the issuer presents its next word and the block executes it (10_state.md R45,
60_exceptions.md R202). -/

namespace Sys2Proof.Machine

/-- One step of the machine. -/
def step (s : State) : Host.Outcome State Fault Refusal := stepIssuer s

/-- `s` with the command whose bits are `w` placed where the issuer presents its next word. Bits at or above `nbits` are
zero; the command is one 32-bit word (30_encoding.md R71). -/
def State.withFetchWord (s : State) (nbits w : Nat) : State :=
  s.presentWord (BitVec.ofNat 32 (w % 2 ^ nbits))

end Sys2Proof.Machine
end

