-- ==== Sys2Proof/Machine/View.lean ====
section
/-! DEFINITION. The register view (10_state.md R40): the read-only byte map over the 10-bit offsets. It is a function of
the state, so a read has no side effect (R41), is answered while FAULT = 1 too, and there is no write path (R42). -/

namespace Sys2Proof.Machine

/-- The byte `i` of a sequence shown through the view, 0x00 past its end (R40). -/
def byteOrZero (l : List Byte) (i : Nat) : Byte := l.getD i 0

/-- The eight scalar fields in the order of their field-select codes (R22). -/
def FrameReg.scalars (fr : FrameReg) : List Byte :=
  [fr.start, fr.length, fr.lengthRepeat, fr.startRepeat, fr.control, fr.address, fr.checksum, fr.stop]

/-- The named registers of the offsets 0x000 to 0x013 (R40). SCNT and PLEN are at most 253 in every state a run
reaches (R22, R26), so they fit their byte. -/
def registerByte (s : State) (a : Nat) : Byte :=
  if a = 0x000 then statusByte s
  else if a = 0x001 then s.cause
  else if a = 0x002 then s.fr.kind.code
  else if a = 0x003 then BitVec.ofNat 8 s.sb.length
  else if a = 0x004 then BitVec.ofNat 8 s.fr.payload.length
  else if a < 0x00D then byteOrZero s.fr.scalars (a - 0x005)
  else if a = 0x010 then opByte s.fcmd
  else if a = 0x011 then byte1 s.fcmd
  else if a = 0x012 then byte2 s.fcmd
  else if a = 0x013 then byte3 s.fcmd
  else 0

/-- The byte at an offset, by the regions of R40; every reserved offset reads 0x00. -/
def viewByte (s : State) (a : Nat) : Byte :=
  if a < 0x100 then registerByte s a
  else if a < 0x1FD then byteOrZero s.fr.payload (a - 0x100)
  else if a < 0x200 then 0
  else if a < 0x2FD then byteOrZero s.sb (a - 0x200)
  else 0

/-- `MemRead(offset, 1)` (R40). -/
def viewRead (s : State) (offset : BitVec 10) : Byte := viewByte s offset.toNat

end Sys2Proof.Machine
end

