-- ==== Sys2Proof/Machine/Access.lean ====
section
/-! DEFINITION. Everything the environment can do to the block, in its one total order: the events and the view reads
(20_memory.md R60). An access is served whole, one after another: this is the only atomicity the block offers (R55,
R62), and no access both reads a byte for its requester and changes the state. -/

namespace Sys2Proof.Machine

/-- One access to the block. -/
inductive Access where
  /-- An event, the only kind of access that changes the state (10_state.md R20, R42). -/
  | event (e : Event)
  /-- A view read, the only kind of access that returns a byte (R40). -/
  | read (offset : BitVec 10)
deriving DecidableEq, Repr

/-- The event of an access, none where it is a view read. -/
def Access.event? : Access → Option Event
  | .event e => some e
  | .read _ => Option.none

/-- The state in which the block stands once `e` has been presented: the next state of its answer, and the same state
where there is no step, since the word is then not consumed and nothing changes (60_exceptions.md R204). -/
def afterEvent (s : State) (e : Event) : State :=
  match react e s with
  | .next t => t
  | .fault _ => s
  | .refused _ => s

/-- The state after a sequence of events, each reading the state that all earlier ones left (R60). -/
def afterEvents (es : List Event) (s : State) : State := es.foldl afterEvent s

/-- One access: the state after it and the bytes it returns. A view read returns one byte and changes nothing, while
FAULT = 1 too (R41); an event returns none. -/
def serve (x : Access) (s : State) : State × List Byte :=
  match x with
  | .event e => (afterEvent s e, [])
  | .read a => (s, [viewRead s a])

/-- Accesses one after another: the state after the last one, and the bytes returned, in order. -/
def serveAll : List Access → State → State × List Byte
  | [], s => (s, [])
  | x :: xs, s => ((serveAll xs (serve x s).1).1, (serve x s).2 ++ (serveAll xs (serve x s).1).2)

end Sys2Proof.Machine
end

