-- ==== Sys2Proof/Machine/Assembler.lean ====
section
/-! DEFINITION. The assembler's language (30_encoding.md R77) and its pseudo-instructions (R78), from the characters of
a line to command words. The spec gives the form of a line and leaves the characters between its parts to the reader:
those choices are DESIGN CHOICE, notes/assumptions/9.md. -/

namespace Sys2Proof.Machine

/-- Why a line produces no word (R77, R78). -/
inductive AsmError where
  /-- The line begins with no mnemonic of R73 or R78. -/
  | unknownMnemonic
  /-- The operand count is not that of R72 or R78. -/
  | operandCount
  /-- A byte operand is outside 0..255. -/
  | operandRange
  /-- An operand is not of the kind its place asks for, or is no number, name or list. -/
  | operandForm
  /-- A payload list of more than 253 bytes (R78). -/
  | payloadTooLong
deriving DecidableEq, Repr

/-- The parts of a line. -/
inductive AsmToken where
  | word (cs : List Char)
  | comma
  | openBracket
  | closeBracket
deriving DecidableEq, Repr

/-- An operand as written: a number, a field name, or a payload list (R77, R78). -/
inductive AsmOperand where
  | number (n : Nat)
  | name (cs : List Char)
  | list (ns : List Nat)
deriving DecidableEq, Repr

/-- The mnemonics of R73 and the pseudo-instructions of R78. -/
inductive AsmOp where
  | ackNew | nackNew | shortNew | payloadClear | payloadPush | longNew | encode | fieldWrite | payloadWrite
  | long | sendAck | sendNack | sendShort | sendLong
deriving DecidableEq, Repr

/-- The spelling of each mnemonic (R73, R78). -/
def asmOps : List (String × AsmOp) :=
  [("ACK_NEW", .ackNew), ("NACK_NEW", .nackNew), ("SHORT_NEW", .shortNew), ("PAYLOAD_CLEAR", .payloadClear),
   ("PAYLOAD_PUSH", .payloadPush), ("LONG_NEW", .longNew), ("ENCODE", .encode), ("FIELD_WRITE", .fieldWrite),
   ("PAYLOAD_WRITE", .payloadWrite), ("LONG", .long), ("SEND_ACK", .sendAck), ("SEND_NACK", .sendNack),
   ("SEND_SHORT", .sendShort), ("SEND_LONG", .sendLong)]

/-- The field names of R22, which FIELD_WRITE accepts in place of the code (R77). -/
def asmFields : List (String × FieldName) :=
  [("start", .start), ("length", .length), ("length_repeat", .lengthRepeat), ("start_repeat", .startRepeat),
   ("control", .control), ("address", .address), ("checksum", .checksum), ("stop", .stop)]

/-- The entry of a table whose spelling is `cs`. -/
def lookupName {α : Type} (cs : List Char) : List (String × α) → Option α
  | [] => Option.none
  | (name, a) :: rest => if name.toList = cs then some a else lookupName cs rest

/-- The value of a hexadecimal digit. -/
def digitValue (c : Char) : Option Nat :=
  let n := c.toNat
  if 48 ≤ n ∧ n ≤ 57 then some (n - 48)
  else if 65 ≤ n ∧ n ≤ 70 then some (n - 55)
  else if 97 ≤ n ∧ n ≤ 102 then some (n - 87)
  else Option.none

/-- The number a digit string has in a base, from the value `acc` of the digits before it. -/
def readDigits (base acc : Nat) : List Char → Option Nat
  | [] => some acc
  | c :: cs =>
    match digitValue c with
    | some d => if d < base then readDigits base (base * acc + d) cs else Option.none
    | Option.none => Option.none

/-- A number in hexadecimal (`0x4B`) or decimal (`75`) (R77). -/
def readNumber : List Char → Option Nat
  | [] => Option.none
  | '0' :: 'x' :: c :: cs => readDigits 16 0 (c :: cs)
  | c :: cs => readDigits 10 0 (c :: cs)

/-- The word read so far, if any, as a token. -/
def flushWord (cur : List Char) : List AsmToken := if cur = [] then [] else [.word cur]

/-- The tokens of a line, the characters `cur` of a word having been read; a comment starts with `;` (R77). -/
def lexLine (cur : List Char) : List Char → List AsmToken
  | [] => flushWord cur
  | c :: cs =>
    if c = ';' then flushWord cur
    else if c = ' ' ∨ c = '\t' ∨ c = '\r' then flushWord cur ++ lexLine [] cs
    else if c = ',' then flushWord cur ++ .comma :: lexLine [] cs
    else if c = '[' then flushWord cur ++ .openBracket :: lexLine [] cs
    else if c = ']' then flushWord cur ++ .closeBracket :: lexLine [] cs
    else lexLine (cur ++ [c]) cs

/-- The tokens cut at the commas that stand outside brackets. -/
def cutAtCommas (inList : Bool) (cur : List AsmToken) : List AsmToken → List (List AsmToken)
  | [] => [cur]
  | .comma :: ts =>
    if inList then cutAtCommas inList (cur ++ [.comma]) ts else cur :: cutAtCommas inList [] ts
  | .openBracket :: ts => cutAtCommas true (cur ++ [.openBracket]) ts
  | .closeBracket :: ts => cutAtCommas false (cur ++ [.closeBracket]) ts
  | .word cs :: ts => cutAtCommas inList (cur ++ [.word cs]) ts

/-- The bytes of a payload list after its `[` and before its `]` (R78). -/
def readItems : List AsmToken → Option (List Nat)
  | [.word cs, .closeBracket] => (readNumber cs).map (fun n => [n])
  | .word cs :: .comma :: ts =>
    match readNumber cs, readItems ts with
    | some n, some ns => some (n :: ns)
    | _, _ => Option.none
  | _ => Option.none

/-- One operand (R77, R78). -/
def readOperand : List AsmToken → Except AsmError AsmOperand
  | [.word cs] =>
    match readNumber cs with
    | some n => .ok (.number n)
    | Option.none => .ok (.name cs)
  | [.openBracket, .closeBracket] => .ok (.list [])
  | .openBracket :: ts =>
    match readItems ts with
    | some ns => .ok (.list ns)
    | Option.none => .error .operandForm
  | _ => .error .operandForm

/-- The operands after a mnemonic, none where nothing follows it. -/
def readOperands (ts : List AsmToken) : Except AsmError (List AsmOperand) :=
  if ts = [] then .ok [] else (cutAtCommas false [] ts).mapM readOperand

/-- A byte value, refused outside 0..255 (R77). -/
def checkByte (n : Nat) : Except AsmError Byte :=
  if n < 256 then .ok (BitVec.ofNat 8 n) else .error .operandRange

/-- A byte operand. -/
def asmByte : AsmOperand → Except AsmError Byte
  | .number n => checkByte n
  | .name _ => .error .operandForm
  | .list _ => .error .operandForm

/-- FIELD_WRITE's first operand: a byte, or a field name for its code (R77). -/
def asmFieldCode : AsmOperand → Except AsmError Byte
  | .number n => checkByte n
  | .name cs =>
    match lookupName cs asmFields with
    | some fld => .ok fld.code
    | Option.none => .error .operandForm
  | .list _ => .error .operandForm

/-- A payload list of at most 253 bytes (R78). -/
def asmPayload : AsmOperand → Except AsmError (List Byte)
  | .list ns => if ns.length ≤ Config.maxPayload then ns.mapM checkByte else .error .payloadTooLong
  | .number _ => .error .operandForm
  | .name _ => .error .operandForm

/-- The expansion of `LONG c, a, [p0, ..., pn]` (R78). -/
def expandLong (c a : Byte) (p : List Byte) : List Instr :=
  .payloadClear :: p.map .payloadPush ++ [.longNew c a]

/-- The commands of a line: a command for itself, a pseudo-instruction expanded (R77, R78). -/
def expandOp (op : AsmOp) (operands : List AsmOperand) : Except AsmError (List Instr) :=
  match op, operands with
  | .ackNew, [] => .ok [.ackNew]
  | .nackNew, [] => .ok [.nackNew]
  | .shortNew, [c, a] => do return [.shortNew (← asmByte c) (← asmByte a)]
  | .payloadClear, [] => .ok [.payloadClear]
  | .payloadPush, [b] => do return [.payloadPush (← asmByte b)]
  | .longNew, [c, a] => do return [.longNew (← asmByte c) (← asmByte a)]
  | .encode, [] => .ok [.encode]
  | .fieldWrite, [f, v] => do return [.fieldWrite (← asmFieldCode f) (← asmByte v)]
  | .payloadWrite, [i, v] => do return [.payloadWrite (← asmByte i) (← asmByte v)]
  | .long, [c, a, p] => do return expandLong (← asmByte c) (← asmByte a) (← asmPayload p)
  | .sendAck, [] => .ok [.ackNew, .encode]
  | .sendNack, [] => .ok [.nackNew, .encode]
  | .sendShort, [c, a] => do return [.shortNew (← asmByte c) (← asmByte a), .encode]
  | .sendLong, [c, a, p] => do return expandLong (← asmByte c) (← asmByte a) (← asmPayload p) ++ [.encode]
  | _, _ => .error .operandCount

/-- The commands of one line; a line with nothing but blanks and a comment has none. -/
def expandLine (line : List Char) : Except AsmError (List Instr) :=
  match lexLine [] line with
  | [] => .ok []
  | .word m :: ts =>
    match lookupName m asmOps with
    | some op => do expandOp op (← readOperands ts)
    | Option.none => .error .unknownMnemonic
  | _ => .error .unknownMnemonic

/-- The words of one line (R77). -/
def assembleLine (line : String) : Except AsmError (List Word) :=
  (expandLine line.toList).map (List.map encode)

/-- The words of a program, one command per line; an assembly error in any line produces no words (R77). -/
def assemble (lines : List String) : Except AsmError (List Word) :=
  (lines.mapM assembleLine).map List.flatten

end Sys2Proof.Machine
end

