-- ==== Sys2Proof/Safety.lean ====
section
/-! DEFINITION. The terms claims are stated in: the condition of each cause (60_exceptions.md R200), the invariants of the
state (10_state.md R22, R23, R26, R31, R32, R35) and of the issuer's run (R45, R46), the invariants a frame has when it is
constructed (R24), and the two ways a run ends (R46). -/

namespace Sys2Proof.Machine

/-- The table of R200, in the order of R205: the cause that the word `w` raises where FAULT = 0, if any. -/
def faultCause (w : Word) (s : State) : Option Cause :=
  match decode w with
  | .error _ => some .illegalCommand
  | .ok (.payloadPush _) => if s.sb.length = 253 then some .payloadOverflow else Option.none
  | .ok .encode => if s.fr.kind = .none then some .noFrame else Option.none
  | .ok (.fieldWrite f _) =>
    if (s.fr.kind = .short ∧ (f = 0 ∨ 4 ≤ f.toNat ∧ f.toNat ≤ 7)) ∨ (s.fr.kind = .long ∧ f.toNat ≤ 7) then Option.none
    else some .badField
  | .ok (.payloadWrite i _) =>
    if s.fr.kind ≠ .long ∨ s.fr.payload.length ≤ i.toNat then some .badIndex else Option.none
  | .ok .ackNew => Option.none
  | .ok .nackNew => Option.none
  | .ok (.shortNew _ _) => Option.none
  | .ok .payloadClear => Option.none
  | .ok (.longNew _ _) => Option.none

/-- A field that the kind lacks holds 0x00, and the payload is [] unless the kind is LONG (R23), of at most 253 bytes
(R22). -/
abbrev FrameShape (fr : FrameReg) : Prop :=
  match fr.kind with
  | .none => fr = FrameReg.reset
  | .ack => fr = ackFrame
  | .nack => fr = nackFrame
  | .short => fr.length = 0 ∧ fr.lengthRepeat = 0 ∧ fr.startRepeat = 0 ∧ fr.payload = []
  | .long => fr.payload.length ≤ 253

/-- What FR satisfies when a construction command finishes (R24). -/
abbrev Constructed (fr : FrameReg) : Prop :=
  match fr.kind with
  | .none => False
  | .ack => ser fr = some [0xE5]
  | .nack => ser fr = some [0xA2]
  | .short => fr.start = 0x10 ∧ fr.stop = 0x16 ∧
      fr.checksum.toNat = (fr.control.toNat + fr.address.toNat) % 256
  | .long => fr.start = 0x68 ∧ fr.startRepeat = 0x68 ∧ fr.stop = 0x16 ∧ fr.length = fr.lengthRepeat ∧
      fr.length.toNat = fr.payload.length + 2 ∧
      fr.checksum.toNat = (fr.control.toNat + fr.address.toNat + (fr.payload.map BitVec.toNat).sum) % 256

/-- The fault latch: with FAULT = 0 it is clear (R31, R32), and with FAULT = 1 it names the word that faulted and the
cause that word has in the state as it stands, which is the state it faulted in (R200, R201). -/
abbrev LatchTrue (s : State) : Prop :=
  if s.fault then (faultCause s.fcmd s).map Cause.code = some s.cause else s.cause = 0 ∧ s.fcmd = 0

/-- The invariant of the block's state. -/
structure BlockInv (s : State) : Prop where
  frame : FrameShape s.fr
  staging : s.sb.length ≤ 253
  latch : LatchTrue s
  frames : ∀ bytes ∈ s.tx, bytes ≠ []

/-- The invariant of the issuer's run: the index is in the program or just past its end, and the word that faulted is
the word at the index (R45, R46). -/
structure RunInv (s : State) : Prop where
  index : s.pc ≤ s.prog.length
  faulting : s.fault = true → s.presented = some s.fcmd

/-- A run of `k` steps from a state, ended early by a step that stops (R45). -/
def runSteps : Nat → State → Outcome
  | 0, s => .next s
  | k + 1, s =>
    match step s with
    | .next t => runSteps k t
    | .fault r => .fault r
    | .refused r => .refused r

/-- A run has completed (R46). -/
abbrev Completed (s : State) : Prop := s.pc = s.prog.length ∧ s.fault = false

/-- A run has faulted (R46). -/
abbrev Faulted (s : State) : Prop := s.fault = true ∧ s.prog[s.pc]? = some s.fcmd

end Sys2Proof.Machine
end

