-- ==== Sys2Proof/Certificates/Slice0/Obligations.lean ====
section
/-! DEFINITION. The statements about the model, for the provers. Each docstring names the rule of spec/ it formalises;
OBLIGATIONS.json lists them. A word's operand bytes are written from the word's bits (30_encoding.md R70), not through
the model's own field functions. -/

open Sys2Proof Sys2Proof.Machine

/-! ## Encoding -/

/-- R70, R72, R73, R75: the word of any command decodes to that command, with every operand at every value. -/
def Obligations.DecodeOfEncode : Prop :=
  ∀ i : Instr, decode (encode i) = .ok i

/-- R74, R75: a legal word has one meaning, so that the word is the encoding of what it decodes to. -/
def Obligations.EncodeOfDecode : Prop :=
  ∀ (w : Word) (i : Instr), decode w = .ok i → encode i = w

/-- R73: the opcode map, row by row. -/
def Obligations.DecodeFollowsOpcodeMap : Prop :=
  ∀ w : Word,
    (decode w = .ok .ackNew ↔ w &&& 0xFFFFFFFF = 0x01000000) ∧
    (decode w = .ok .nackNew ↔ w &&& 0xFFFFFFFF = 0x02000000) ∧
    (∀ c a, decode w = .ok (.shortNew c a) ↔
      w &&& 0xFF0000FF = 0x03000000 ∧ c = w.extractLsb' 16 8 ∧ a = w.extractLsb' 8 8) ∧
    (decode w = .ok .payloadClear ↔ w &&& 0xFFFFFFFF = 0x04000000) ∧
    (∀ b, decode w = .ok (.payloadPush b) ↔ w &&& 0xFF00FFFF = 0x05000000 ∧ b = w.extractLsb' 16 8) ∧
    (∀ c a, decode w = .ok (.longNew c a) ↔
      w &&& 0xFF0000FF = 0x06000000 ∧ c = w.extractLsb' 16 8 ∧ a = w.extractLsb' 8 8) ∧
    (decode w = .ok .encode ↔ w &&& 0xFFFFFFFF = 0x07000000) ∧
    (∀ f v, decode w = .ok (.fieldWrite f v) ↔
      w &&& 0xFF0000FF = 0x08000000 ∧ f = w.extractLsb' 16 8 ∧ v = w.extractLsb' 8 8) ∧
    (∀ k v, decode w = .ok (.payloadWrite k v) ↔
      w &&& 0xFF0000FF = 0x09000000 ∧ k = w.extractLsb' 16 8 ∧ v = w.extractLsb' 8 8)

/-- R74: which words are illegal, and that executing one raises ILLEGAL_COMMAND, the all-zero word among them. -/
def Obligations.IllegalWordsAreTheUnassignedOnes : Prop :=
  ∀ w : Word,
    ((∃ e, decode w = .error e) ↔
      (w.extractLsb' 24 8 = 0x00#8 ∨ 0x0A ≤ (w.extractLsb' 24 8).toNat) ∨
      (1 ≤ (w.extractLsb' 24 8).toNat ∧ (w.extractLsb' 24 8).toNat ≤ 9 ∧
        ∀ i : Instr, i.opcode = w.extractLsb' 24 8 → w &&& i.rowMask ≠ i.rowMatch)) ∧
    (∀ s : State, s.fault = false → (∃ e, decode w = .error e) →
      stepWord w s = .next { s with fault := true, cause := 0x01, fcmd := w }) ∧
    (∃ e, decode 0x00000000 = .error e)

/-- R79: the encoding examples, from the line to the word and from the word to the command. -/
def Obligations.EncodingExamples : Prop :=
  (assembleLine "ACK_NEW" = .ok [0x01000000] ∧ decode 0x01000000 = .ok .ackNew) ∧
  (assembleLine "NACK_NEW" = .ok [0x02000000] ∧ decode 0x02000000 = .ok .nackNew) ∧
  (assembleLine "SHORT_NEW 0x40, 0x01" = .ok [0x03400100] ∧ decode 0x03400100 = .ok (.shortNew 0x40 0x01)) ∧
  (assembleLine "PAYLOAD_CLEAR" = .ok [0x04000000] ∧ decode 0x04000000 = .ok .payloadClear) ∧
  (assembleLine "PAYLOAD_PUSH 0x99" = .ok [0x05990000] ∧ decode 0x05990000 = .ok (.payloadPush 0x99)) ∧
  (assembleLine "LONG_NEW 0x44, 0x01" = .ok [0x06440100] ∧ decode 0x06440100 = .ok (.longNew 0x44 0x01)) ∧
  (assembleLine "ENCODE" = .ok [0x07000000] ∧ decode 0x07000000 = .ok .encode) ∧
  (assembleLine "FIELD_WRITE checksum, 0x00" = .ok [0x08060000] ∧ decode 0x08060000 = .ok (.fieldWrite 6 0x00)) ∧
  (assembleLine "PAYLOAD_WRITE 2, 0x7F" = .ok [0x09027F00] ∧ decode 0x09027F00 = .ok (.payloadWrite 2 0x7F))

/-- R52: a word carried as four bytes has its opcode byte first, and the view's FCMD bytes are in the same order. -/
def Obligations.CommandBytesAreBigEndian : Prop :=
  (∀ (w : Word) (rest : List Byte),
    decodeBytes ([w.extractLsb' 24 8, w.extractLsb' 16 8, w.extractLsb' 8 8, w.extractLsb' 0 8] ++ rest) =
      (decode w).map (fun i => (i, rest))) ∧
  (∀ s : State, [viewRead s 0x010, viewRead s 0x011, viewRead s 0x012, viewRead s 0x013] =
    [s.fcmd.extractLsb' 24 8, s.fcmd.extractLsb' 16 8, s.fcmd.extractLsb' 8 8, s.fcmd.extractLsb' 0 8])

/-- R77, R78: an operand outside 0..255, in a byte's place or in a payload list of the right place, or a wrong operand
count, gives an assembly error and no command. -/
def Obligations.AssemblerRefusesBadOperands : Prop :=
  ∀ (op : AsmOp) (operands : List AsmOperand),
    let arity := match op with
      | .ackNew => 0 | .nackNew => 0 | .shortNew => 2 | .payloadClear => 0 | .payloadPush => 1 | .longNew => 2
      | .encode => 0 | .fieldWrite => 2 | .payloadWrite => 2
      | .long => 3 | .sendAck => 0 | .sendNack => 0 | .sendShort => 2 | .sendLong => 3
    (operands.length ≠ arity → expandOp op operands = .error .operandCount) ∧
    (∀ n, 256 ≤ n → AsmOperand.number n ∈ operands → ∃ e, expandOp op operands = .error e) ∧
    (∀ ns n, 256 ≤ n → n ∈ ns → AsmOperand.list ns ∈ operands → ∃ e, expandOp op operands = .error e)

/-- R78: the expansion of every pseudo-instruction, and the refusal of a list of more than 253 bytes. -/
def Obligations.PseudoInstructionsExpand : Prop :=
  ∀ (c a : Byte) (p : List Byte),
    (p.length ≤ 253 →
      expandOp .long [.number c.toNat, .number a.toNat, .list (p.map BitVec.toNat)] =
        .ok ([.payloadClear] ++ p.map Instr.payloadPush ++ [.longNew c a]) ∧
      expandOp .sendLong [.number c.toNat, .number a.toNat, .list (p.map BitVec.toNat)] =
        .ok ([.payloadClear] ++ p.map Instr.payloadPush ++ [.longNew c a] ++ [.encode])) ∧
    (253 < p.length →
      expandOp .long [.number c.toNat, .number a.toNat, .list (p.map BitVec.toNat)] = .error .payloadTooLong ∧
      expandOp .sendLong [.number c.toNat, .number a.toNat, .list (p.map BitVec.toNat)] = .error .payloadTooLong) ∧
    expandOp .sendAck [] = .ok [.ackNew, .encode] ∧
    expandOp .sendNack [] = .ok [.nackNew, .encode] ∧
    expandOp .sendShort [.number c.toNat, .number a.toNat] = .ok [.shortNew c a, .encode]

/-- R78, R130 to R132: presenting the words of `LONG c, a, [p0, ..., pn]` to a block with FAULT = 0, whatever it has
staged before, builds the Long frame of that payload and leaves SB empty. -/
def Obligations.PseudoLongBuildsItsFrame : Prop :=
  ∀ (c a : Byte) (p : List Byte) (s : State), s.fault = false → p.length ≤ 253 →
    presentAll ((expandLong c a p).map encode) s =
      .next { s with fr := longFrame c a p, sb := [], pc := s.pc + (p.length + 2) }

/-! ## The step -/

/-- R202, R45: the block's step on a word, its checks in order, and that the machine's step is the block's step on the
word the issuer presents, with nothing added around it. -/
def Obligations.StepRunsDecodedCommand : Prop :=
  ∀ (s : State) (w : Word),
    (s.fault = true → stepWord w s = .fault .halted) ∧
    (∀ e, s.fault = false → decode w = .error e →
      stepWord w s = .next { s with fault := true, cause := 0x01, fcmd := w }) ∧
    (∀ i, s.fault = false → decode w = .ok i → stepWord w s = exec i s) ∧
    (s.prog[s.pc]? = some w → step s = stepWord w s)

/-- R203: an illegal word faults in every state with FAULT = 0, and a legal opcode with a reserved bit set is illegal. -/
def Obligations.IllegalWordFaults : Prop :=
  (∀ (s : State) (w : Word) (e : DecodeError), s.fault = false → s.prog[s.pc]? = some w → decode w = .error e →
    step s = .next { s with fault := true, cause := 0x01, fcmd := w }) ∧
  (∀ (w : Word) (i : Instr), w.extractLsb' 24 8 = i.opcode → w &&& i.rowMask ≠ i.rowMatch →
    ∃ e, decode w = .error e)

/-- R204: after a fault no word is taken, by the step, by an event or in a sequence, only reset ends the halt, and the
view still reads, STATUS reporting the fault. -/
def Obligations.HaltedUntilReset : Prop :=
  ∀ s : State, s.fault = true →
    (∀ w, stepWord w s = .fault .halted) ∧ step s = .fault .halted ∧
    (∀ w ws, presentAll (w :: ws) s = .fault .halted) ∧
    (∀ e t, react e s = .next t → e = .reset ∧ t.fault = false) ∧
    viewRead s 0x000 = 1

/-- R201: a word that faults has the three writes of its fault and no other effect. -/
def Obligations.FaultIsPrecise : Prop :=
  ∀ (s t : State) (w : Word), s.fault = false → stepWord w s = .next t → t.fault = true →
    ∃ c, faultCause w s = some c ∧ t = { s with fault := true, cause := c.code, fcmd := w }

/-- R200, R205: with FAULT = 0, a word raises exactly the cause that the table of R200 gives it, with that cause's code,
and where the table gives none the latch stays clear of it. -/
def Obligations.FaultsFollowTheCauseTable : Prop :=
  (Cause.illegalCommand.code = 0x01 ∧ Cause.payloadOverflow.code = 0x02 ∧ Cause.noFrame.code = 0x03 ∧
    Cause.badField.code = 0x04 ∧ Cause.badIndex.code = 0x05) ∧
  ∀ (s : State) (w : Word), s.fault = false →
    (∀ c, faultCause w s = some c →
      stepWord w s = .next { s with fault := true, cause := c.code, fcmd := w }) ∧
    (faultCause w s = none →
      ∃ t, stepWord w s = .next t ∧ t.fault = false ∧ t.cause = s.cause ∧ t.fcmd = s.fcmd)

/-- R45: a presented word advances the issuer's index by 1 when it completes and by 0 when it faults; the index is 0 at
the start of a run. -/
def Obligations.IndexAdvancesByOne : Prop :=
  (∀ (s : State) (w : Word), s.fault = false → s.prog[s.pc]? = some w →
    ∃ t, step s = .next t ∧ t.prog = s.prog ∧
      (t.fault = false ∧ t.pc = s.pc + 1 ∨ t.fault = true ∧ t.pc = s.pc)) ∧
  (∀ (s : State) (prog : List Word), State.reset.pc = 0 ∧ (loadProgram prog s).pc = 0 ∧ (assertReset s).pc = 0)

/-- R215, R232, and the model's choice in notes/assumptions/2.md: with no word presented the block is idle. -/
def Obligations.IdleWithoutWord : Prop :=
  ∀ s : State, s.fault = false → s.prog.length ≤ s.pc → step s = .next s

/-- R45, and the model's choice in notes/assumptions/1.md: a word placed by `withFetchWord` is the next one presented,
and the next step runs it, with nothing but the program changed. -/
def Obligations.FetchWordIsPresentedNext : Prop :=
  ∀ (s : State) (w : Word),
    (s.withFetchWord 32 w.toNat).prog[s.pc]? = some w ∧
    { s.withFetchWord 32 w.toNat with prog := s.prog } = s ∧
    (∀ i, s.fault = false → decode w = .ok i →
      step (s.withFetchWord 32 w.toNat) = exec i (s.withFetchWord 32 w.toNat))

/-- R11, R201: every command ends in a next state, from every state. -/
def Obligations.EveryCommandEndsInANextState : Prop :=
  ∀ (i : Instr) (s : State), ∃ t, exec i s = .next t ∧ t.prog = s.prog ∧
    (t.pc = s.pc + 1 ∧ t.fault = s.fault ∧ t.cause = s.cause ∧ t.fcmd = s.fcmd ∨
      ∃ c, t = { s with fault := true, cause := c, fcmd := encode i })

/-- R22, R23, R26, R30 to R32, R35, R45, R46: the invariants of the block and of the run are kept by every step. -/
def Obligations.StepKeepsTheInvariants : Prop :=
  ∀ s t : State, BlockInv s → RunInv s → step s = .next t → BlockInv t ∧ RunInv t

/-- R20, R22, R23, R26, R30 to R32, R35: the block's invariant is kept by every event, a word or a reset. -/
def Obligations.EveryEventKeepsTheBlockInvariant : Prop :=
  ∀ (e : Event) (s t : State), BlockInv s → react e s = .next t → BlockInv t

/-- R48, R230: the invariants hold after reset, and after a reset of any state. -/
def Obligations.ResetMeetsTheInvariants : Prop :=
  (BlockInv State.reset ∧ RunInv State.reset) ∧
  ∀ (s : State) (prog : List Word), BlockInv (assertReset s) ∧ RunInv (assertReset s) ∧
    (BlockInv s → BlockInv (loadProgram prog s)) ∧ (s.fault = false → RunInv (loadProgram prog s))

/-- R46: from every state of a run, the run ends completed or faulted within as many steps as words are left. -/
def Obligations.EveryRunCompletesOrFaults : Prop :=
  ∀ s : State, RunInv s → s.fault = false →
    ∃ (k : Nat) (t : State), k ≤ s.prog.length - s.pc ∧ runSteps k s = .next t ∧
      t.prog = s.prog ∧ (Completed t ∨ Faulted t ∧ step t = .fault .halted)

/-- R46, in the model's terms: in a run the step stops in the faulted states only, and changes nothing in the completed
ones only. R46 names the two ends of a run; that a step of a completed run exists and answers the same state is the
model's DESIGN CHOICE in notes/assumptions/2.md, and that a faulted state answers a stop is notes/assumptions/3.md. -/
def Obligations.OnlyTheRunsEndsAreFinal : Prop :=
  ∀ s : State, RunInv s →
    ((∃ r, step s = .fault r) ↔ Faulted s) ∧ (step s = .next s ↔ Completed s) ∧ (∀ r, step s ≠ .refused r)

/-- R45, R60: running the machine to the end of the issuer's program is presenting the words that are left, one after
another. -/
def Obligations.RunPresentsTheProgramInOrder : Prop :=
  ∀ s : State, runSteps (s.prog.length - s.pc) s = presentAll (s.prog.drop s.pc) s

/-! ## Reset -/

/-- R48: the reset value of every piece of state. -/
def Obligations.ResetValues : Prop :=
  State.reset.fr.kind = .none ∧ State.reset.fr.start = 0x00 ∧ State.reset.fr.length = 0x00 ∧
  State.reset.fr.lengthRepeat = 0x00 ∧ State.reset.fr.startRepeat = 0x00 ∧ State.reset.fr.control = 0x00 ∧
  State.reset.fr.address = 0x00 ∧ State.reset.fr.checksum = 0x00 ∧ State.reset.fr.stop = 0x00 ∧
  State.reset.fr.payload = [] ∧ State.reset.sb = [] ∧ State.reset.fault = false ∧ State.reset.cause = 0x00 ∧
  State.reset.fcmd = 0x00000000 ∧ State.reset.tx = []

/-- R230: reset, from any state, sets every piece of the block's state to its reset value and starts a new run at index
0; no other event clears FAULT. -/
def Obligations.ResetRestoresEveryRegister : Prop :=
  ∀ s : State,
    (∃ t, react .reset s = .next t ∧ { t with prog := State.reset.prog } = State.reset) ∧
    (∀ e t, s.fault = true → react e s = .next t → t.fault = false → e = .reset)

/-! ## The commands -/

/-- R110: ACK_NEW. -/
def Obligations.AckNewResult : Prop :=
  (∀ w : Word, decode w = .ok .ackNew ↔ w = 0x01000000) ∧
  ∀ s : State,
    let ack : FrameReg := ⟨.ack, 0x00, 0x00, 0x00, 0x00, 0x00, 0x00, 0x00, 0x00, []⟩
    exec .ackNew s = .next { s with fr := ack, pc := s.pc + 1 } ∧
    (s.fr = ack → exec .ackNew s = .next { s with pc := s.pc + 1 }) ∧
    viewRead { s with fr := ack, pc := s.pc + 1 } 0x002 = 1 ∧ viewRead { s with fr := ack, pc := s.pc + 1 } 0x004 = 0

/-- R111: NACK_NEW. -/
def Obligations.NackNewResult : Prop :=
  (∀ w : Word, decode w = .ok .nackNew ↔ w = 0x02000000) ∧
  ∀ s : State,
    let nack : FrameReg := ⟨.nack, 0x00, 0x00, 0x00, 0x00, 0x00, 0x00, 0x00, 0x00, []⟩
    exec .nackNew s = .next { s with fr := nack, pc := s.pc + 1 } ∧
    (s.fr = nack → exec .nackNew s = .next { s with pc := s.pc + 1 }) ∧
    viewRead { s with fr := nack, pc := s.pc + 1 } 0x002 = 2

/-- R120: SHORT_NEW c, a. The checksum is the wrapped sum, for every pair of bytes. -/
def Obligations.ShortNewResult : Prop :=
  ∀ (c a : Byte) (s : State),
    (∀ w : Word, decode w = .ok (.shortNew c a) ↔ w = 0x03#8 ++ c ++ a ++ 0x00#8) ∧
    exec (.shortNew c a) s =
      .next { s with fr := ⟨.short, 0x10, 0x00, 0x00, 0x00, c, a, c + a, 0x16, []⟩, pc := s.pc + 1 } ∧
    (c + a).toNat = (c.toNat + a.toNat) % 256

/-- R130: PAYLOAD_CLEAR. FR, its payload among it, is unchanged. -/
def Obligations.PayloadClearResult : Prop :=
  (∀ w : Word, decode w = .ok .payloadClear ↔ w = 0x04000000) ∧
  ∀ s : State,
    exec .payloadClear s = .next { s with sb := [], pc := s.pc + 1 } ∧
    (s.sb = [] → exec .payloadClear s = .next { s with pc := s.pc + 1 })

/-- R131: PAYLOAD_PUSH b appends, or faults where SB already holds 253 bytes; from an empty SB the pushes 1 to 253
succeed and the 254th faults. -/
def Obligations.PayloadPushResult : Prop :=
  ∀ (b : Byte) (s : State),
    (∀ w : Word, decode w = .ok (.payloadPush b) ↔ w = 0x05#8 ++ b ++ 0x00#8 ++ 0x00#8) ∧
    (s.sb.length ≠ 253 → exec (.payloadPush b) s = .next { s with sb := s.sb ++ [b], pc := s.pc + 1 }) ∧
    (s.sb.length = 253 →
      exec (.payloadPush b) s =
        .next { s with fault := true, cause := 0x02, fcmd := 0x05#8 ++ b ++ 0x00#8 ++ 0x00#8 }) ∧
    (∀ bs : List Byte, s.fault = false → s.sb = [] →
      (bs.length ≤ 253 →
        presentAll (bs.map (fun x => encode (.payloadPush x))) s =
          .next { s with sb := bs, pc := s.pc + bs.length }) ∧
      (bs.length = 253 →
        presentAll ((bs ++ [b]).map (fun x => encode (.payloadPush x))) s =
          .next { s with sb := bs, pc := s.pc + 253, fault := true, cause := 0x02, fcmd := encode (.payloadPush b) }))

/-- R132, R133: LONG_NEW c, a, in every state whose staging buffer is within its capacity (R26). -/
def Obligations.LongNewResult : Prop :=
  ∀ (c a : Byte) (s : State), s.sb.length ≤ 253 →
    (∀ w : Word, decode w = .ok (.longNew c a) ↔ w = 0x06#8 ++ c ++ a ++ 0x00#8) ∧
    ∃ len sum : Byte,
      exec (.longNew c a) s =
        .next { s with fr := ⟨.long, 0x68, len, len, 0x68, c, a, sum, 0x16, s.sb⟩, sb := [], pc := s.pc + 1 } ∧
      len.toNat = s.sb.length + 2 ∧
      sum.toNat = (c.toNat + a.toNat + (s.sb.map BitVec.toNat).sum) % 256

/-- R151: ENCODE. NO_FRAME where FR is NONE, else one frame of the kind's bytes enters TX and nothing else changes. -/
def Obligations.EncodeResult : Prop :=
  (∀ w : Word, decode w = .ok .encode ↔ w = 0x07000000) ∧
  ∀ s : State,
    (s.fr.kind = .none → exec .encode s = .next { s with fault := true, cause := 0x03, fcmd := 0x07000000 }) ∧
    (s.fr.kind ≠ .none → ∃ bytes, ser s.fr = some bytes ∧
      exec .encode s = .next { s with tx := s.tx ++ [bytes], pc := s.pc + 1 } ∧
      bytes.length = (match s.fr.kind with
        | .none => 0 | .ack => 1 | .nack => 1 | .short => 5 | .long => 8 + s.fr.payload.length))

/-- R160: FIELD_WRITE f, v, for every kind and every value of `f`. -/
def Obligations.FieldWriteResult : Prop :=
  ∀ (f v : Byte) (s : State),
    (∀ w : Word, decode w = .ok (.fieldWrite f v) ↔ w = 0x08#8 ++ f ++ v ++ 0x00#8) ∧
    (s.fr.kind = .short ∨ s.fr.kind = .long →
      (f = 0 → exec (.fieldWrite f v) s = .next { s with fr := { s.fr with start := v }, pc := s.pc + 1 }) ∧
      (f = 4 → exec (.fieldWrite f v) s = .next { s with fr := { s.fr with control := v }, pc := s.pc + 1 }) ∧
      (f = 5 → exec (.fieldWrite f v) s = .next { s with fr := { s.fr with address := v }, pc := s.pc + 1 }) ∧
      (f = 6 → exec (.fieldWrite f v) s = .next { s with fr := { s.fr with checksum := v }, pc := s.pc + 1 }) ∧
      (f = 7 → exec (.fieldWrite f v) s = .next { s with fr := { s.fr with stop := v }, pc := s.pc + 1 })) ∧
    (s.fr.kind = .long →
      (f = 1 → exec (.fieldWrite f v) s = .next { s with fr := { s.fr with length := v }, pc := s.pc + 1 }) ∧
      (f = 2 → exec (.fieldWrite f v) s = .next { s with fr := { s.fr with lengthRepeat := v }, pc := s.pc + 1 }) ∧
      (f = 3 → exec (.fieldWrite f v) s = .next { s with fr := { s.fr with startRepeat := v }, pc := s.pc + 1 })) ∧
    (8 ≤ f.toNat ∨ s.fr.kind = .none ∨ s.fr.kind = .ack ∨ s.fr.kind = .nack ∨
        s.fr.kind = .short ∧ (f = 1 ∨ f = 2 ∨ f = 3) →
      exec (.fieldWrite f v) s =
        .next { s with fault := true, cause := 0x04, fcmd := 0x08#8 ++ f ++ v ++ 0x00#8 })

/-- R161: PAYLOAD_WRITE i, v, for every kind and every index. -/
def Obligations.PayloadWriteResult : Prop :=
  ∀ (k v : Byte) (s : State),
    (∀ w : Word, decode w = .ok (.payloadWrite k v) ↔ w = 0x09#8 ++ k ++ v ++ 0x00#8) ∧
    (s.fr.kind = .long → k.toNat < s.fr.payload.length →
      ∃ p : List Byte, exec (.payloadWrite k v) s = .next { s with fr := { s.fr with payload := p }, pc := s.pc + 1 } ∧
        p.length = s.fr.payload.length ∧ p[k.toNat]? = some v ∧
        ∀ j, j ≠ k.toNat → p[j]? = s.fr.payload[j]?) ∧
    (s.fr.kind ≠ .long ∨ s.fr.payload.length ≤ k.toNat →
      exec (.payloadWrite k v) s =
        .next { s with fault := true, cause := 0x05, fcmd := 0x09#8 ++ k ++ v ++ 0x00#8 })

/-! ## Frames: what a command leaves unchanged -/

/-- R26: only three commands touch SB: the first empties it, the second appends one byte, the third moves it into the
payload. Every other command neither reads nor writes it: with any other staging buffer it does the same. -/
def Obligations.OnlyThreeCommandsTouchStaging : Prop :=
  (∀ (i : Instr) (s : State) (x : List Byte),
    i ≠ .payloadClear → (∀ b, i ≠ .payloadPush b) → (∀ c a, i ≠ .longNew c a) →
    ∃ t, exec i s = .next t ∧ t.sb = s.sb ∧ exec i { s with sb := x } = .next { t with sb := x }) ∧
  (∀ s : State, ∃ t, exec .payloadClear s = .next t ∧ t.sb = []) ∧
  (∀ (b : Byte) (s : State), s.sb.length < 253 → ∃ t, exec (.payloadPush b) s = .next t ∧ t.sb = s.sb ++ [b]) ∧
  (∀ (c a : Byte) (s : State), ∃ t, exec (.longNew c a) s = .next t ∧ t.fr.payload = s.sb ∧ t.sb = [])

/-- R25, R163: how PLEN changes: LONG_NEW sets it to the staging count, the other constructions to 0, and nothing else
changes it. -/
def Obligations.PayloadLengthChangesOnlyAtConstruction : Prop :=
  ∀ (i : Instr) (s t : State), exec i s = .next t →
    t.fr.payload.length = (match i with
      | .ackNew => 0
      | .nackNew => 0
      | .shortNew _ _ => 0
      | .payloadClear => s.fr.payload.length
      | .payloadPush _ => s.fr.payload.length
      | .longNew _ _ => s.sb.length
      | .encode => s.fr.payload.length
      | .fieldWrite _ _ => s.fr.payload.length
      | .payloadWrite _ _ => s.fr.payload.length)

/-- R35: only ENCODE adds to TX, one frame at a time and never an empty one; no command removes or changes a frame; the
wire carries the frames one after another. -/
def Obligations.OnlyEncodeAddsAFrame : Prop :=
  ∀ (i : Instr) (s t : State), exec i s = .next t →
    (t.tx = s.tx ∧ t.wire = s.wire) ∨
    (i = .encode ∧ ∃ bytes, bytes ≠ [] ∧ t.tx = s.tx ++ [bytes] ∧ t.wire = s.wire ++ bytes)

/-- R57, R60: the frames already emitted stay as they are and where they are, whatever words come after. -/
def Obligations.EmittedFramesNeverChange : Prop :=
  ∀ (ws : List Word) (s t : State), presentAll ws s = .next t →
    ∃ later, t.tx = s.tx ++ later ∧ later.length ≤ ws.length

/-- R110, R111, R120, R130, R131, R132, R151, R160, R161: the frame of every command: what a completed command leaves
unchanged. The fields of FR that a FIELD_WRITE leaves are those of the other field-select codes. -/
def Obligations.CompletedCommandFrame : Prop :=
  ∀ (i : Instr) (s t : State), s.fault = false → exec i s = .next t → t.fault = false →
    (t.cause = s.cause ∧ t.fcmd = s.fcmd ∧ t.prog = s.prog) ∧
    (match i with
      | .ackNew => t.sb = s.sb ∧ t.tx = s.tx
      | .nackNew => t.sb = s.sb ∧ t.tx = s.tx
      | .shortNew _ _ => t.sb = s.sb ∧ t.tx = s.tx
      | .payloadClear => t.fr = s.fr ∧ t.tx = s.tx
      | .payloadPush _ => t.fr = s.fr ∧ t.tx = s.tx
      | .longNew _ _ => t.tx = s.tx
      | .encode => t.fr = s.fr ∧ t.sb = s.sb
      | .fieldWrite f _ => t.sb = s.sb ∧ t.tx = s.tx ∧ t.fr.kind = s.fr.kind ∧ t.fr.payload = s.fr.payload ∧
          ∀ fld : FieldName, fld.code ≠ f → t.fr.get fld = s.fr.get fld
      | .payloadWrite k _ => t.sb = s.sb ∧ t.tx = s.tx ∧ t.fr.kind = s.fr.kind ∧
          (∀ fld : FieldName, t.fr.get fld = s.fr.get fld) ∧ ∀ j, j ≠ k.toNat → t.fr.payload[j]? = s.fr.payload[j]?)

/-- R40, R54, R58: the frame of every command that writes single bytes or none, over the block's address space: every
offset of the view reads as before except the byte written and, for a push, the count. -/
def Obligations.ByteWritesShowAtTheirOffsetOnly : Prop :=
  ∀ (s t : State) (a : BitVec 10), s.fault = false → t.fault = false →
    (∀ f v, exec (.fieldWrite f v) s = .next t →
      viewRead t a = if a.toNat = 0x005 + f.toNat then v else viewRead s a) ∧
    (∀ k v, s.fr.payload.length ≤ 253 → exec (.payloadWrite k v) s = .next t →
      viewRead t a = if a.toNat = 0x100 + k.toNat then v else viewRead s a) ∧
    (∀ b, s.sb.length ≤ 253 → exec (.payloadPush b) s = .next t →
      viewRead t a = if a.toNat = 0x003 then BitVec.ofNat 8 (s.sb.length + 1)
        else if a.toNat = 0x200 + s.sb.length then b else viewRead s a) ∧
    (exec .encode s = .next t → viewRead t a = viewRead s a)

/-- R110, R111, R120, R130, R132: the frame of the construction commands and of PAYLOAD_CLEAR over the view: the latch's
offsets always, the staging offsets unless SB is emptied, the frame's offsets where FR is kept. -/
def Obligations.ConstructionsKeepTheOtherOffsets : Prop :=
  ∀ (i : Instr) (s t : State) (a : BitVec 10), exec i s = .next t →
    (i = .ackNew ∨ i = .nackNew ∨ (∃ c x, i = .shortNew c x) ∨ (∃ c x, i = .longNew c x) ∨ i = .payloadClear) →
    (a.toNat ≤ 0x001 ∨ 0x00D ≤ a.toNat ∧ a.toNat < 0x100 → viewRead t a = viewRead s a) ∧
    (i = .ackNew ∨ i = .nackNew ∨ (∃ c x, i = .shortNew c x) →
      a.toNat = 0x003 ∨ 0x1FD ≤ a.toNat → viewRead t a = viewRead s a) ∧
    (i = .payloadClear → a.toNat ≠ 0x003 → a.toNat < 0x200 → viewRead t a = viewRead s a) ∧
    (i = .payloadClear ∨ (∃ c x, i = .longNew c x) → a.toNat = 0x003 ∨ 0x200 ≤ a.toNat → viewRead t a = 0)

/-! ## The checksum and the stored fields -/

/-- R100: `sum8` is the sum of the bytes modulo 256, built by the wrapping fold. -/
def Obligations.ChecksumIsTheSumModulo256 : Prop :=
  sum8 [] = 0x00 ∧
  (∀ (l : List Byte) (b : Byte), sum8 (l ++ [b]) = wadd8 (sum8 l) b ∧
    (wadd8 (sum8 l) b).toNat = ((sum8 l).toNat + b.toNat) % 256) ∧
  ∀ l : List Byte, (sum8 l).toNat = (l.map BitVec.toNat).sum % 256

/-- R102: the checksum of a Short frame is over control and address, of a Long frame over control, address and payload;
the order of the bytes does not matter, and no other field enters. -/
def Obligations.ChecksumInputs : Prop :=
  (∀ (c a : Byte) (s : State), ∃ t, exec (.shortNew c a) s = .next t ∧ t.fr.checksum = sum8 [c, a]) ∧
  (∀ (c a : Byte) (s : State), ∃ t, exec (.longNew c a) s = .next t ∧ t.fr.checksum = sum8 ([c, a] ++ s.sb)) ∧
  (∀ l m : List Byte, l.Perm m → sum8 l = sum8 m)

/-- R103, R162: after construction no command updates a derived field: `checksum`, `length` and `length_repeat` change
only by a construction or by a FIELD_WRITE of that very field, to the byte it writes. -/
def Obligations.DerivedFieldsAreNeverRecomputed : Prop :=
  ∀ (i : Instr) (s t : State), exec i s = .next t →
    (i ≠ .ackNew ∧ i ≠ .nackNew ∧ (∀ c a, i ≠ .shortNew c a) ∧ (∀ c a, i ≠ .longNew c a)) →
    (t.fr.checksum = s.fr.checksum ∨ i = .fieldWrite 6 t.fr.checksum) ∧
    (t.fr.length = s.fr.length ∨ i = .fieldWrite 1 t.fr.length) ∧
    (t.fr.lengthRepeat = s.fr.lengthRepeat ∨ i = .fieldWrite 2 t.fr.lengthRepeat)

/-- R24: when a construction command finishes, FR satisfies the invariants of its kind; later they may be broken, since
FIELD_WRITE checks none of them. -/
def Obligations.ConstructionEstablishesTheFrameInvariants : Prop :=
  (∀ (i : Instr) (s : State), s.sb.length ≤ 253 →
    (i = .ackNew ∨ i = .nackNew ∨ (∃ c a, i = .shortNew c a) ∨ (∃ c a, i = .longNew c a)) →
    ∃ t, exec i s = .next t ∧ Constructed t.fr) ∧
  (∀ s : State, s.fr.kind = .short ∨ s.fr.kind = .long → Constructed s.fr →
    ∃ f v t, exec (.fieldWrite f v) s = .next t ∧ t.fr.kind = s.fr.kind ∧ ¬ Constructed t.fr)

/-! ## Serialisation and the wire -/

/-- R150: `ser`, kind by kind: the stored values, verbatim. -/
def Obligations.SerialisationByKind : Prop :=
  ∀ fr : FrameReg,
    (fr.kind = .none → ser fr = none) ∧
    (fr.kind = .ack → ser fr = some [0xE5]) ∧
    (fr.kind = .nack → ser fr = some [0xA2]) ∧
    (fr.kind = .short → ser fr = some [fr.start, fr.control, fr.address, fr.checksum, fr.stop]) ∧
    (fr.kind = .long → ser fr = some ([fr.start, fr.length, fr.lengthRepeat, fr.startRepeat, fr.control, fr.address] ++
      fr.payload ++ [fr.checksum, fr.stop]))

/-- R112: an Ack or Nack frame is its constant byte, and FIELD_WRITE has no field of it to write. -/
def Obligations.AckAndNackOnTheWire : Prop :=
  ∀ s : State,
    (∃ t u, exec .ackNew s = .next t ∧ exec .encode t = .next u ∧ u.tx = s.tx ++ [[0xE5]]) ∧
    (∃ t u, exec .nackNew s = .next t ∧ exec .encode t = .next u ∧ u.tx = s.tx ++ [[0xA2]]) ∧
    (∀ f v t, s.fr.kind = .ack ∨ s.fr.kind = .nack → exec (.fieldWrite f v) s = .next t →
      ser t.fr = ser s.fr ∧ t.fr = s.fr)

/-- R121: the five bytes of a Short frame, after SHORT_NEW and whatever its fields hold. -/
def Obligations.ShortFrameOnTheWire : Prop :=
  (∀ (c a : Byte) (s : State), ∃ t u, exec (.shortNew c a) s = .next t ∧ exec .encode t = .next u ∧
    u.tx = s.tx ++ [[0x10, c, a, sum8 [c, a], 0x16]]) ∧
  (∀ fr : FrameReg, fr.kind = .short → ∃ bytes, ser fr = some bytes ∧ bytes.length = 5 ∧
    bytes = [fr.start, fr.control, fr.address, fr.checksum, fr.stop])

/-- R134: the `8 + n` bytes of a Long frame, position by position, from the stored fields and never from the stored
length; and their values after LONG_NEW. -/
def Obligations.LongFrameOnTheWire : Prop :=
  (∀ fr : FrameReg, fr.kind = .long → ∃ bytes, ser fr = some bytes ∧
    bytes.length = 8 + fr.payload.length ∧
    bytes[0]? = some fr.start ∧ bytes[1]? = some fr.length ∧ bytes[2]? = some fr.lengthRepeat ∧
    bytes[3]? = some fr.startRepeat ∧ bytes[4]? = some fr.control ∧ bytes[5]? = some fr.address ∧
    (∀ k, k < fr.payload.length → bytes[6 + k]? = fr.payload[k]?) ∧
    bytes[6 + fr.payload.length]? = some fr.checksum ∧ bytes[7 + fr.payload.length]? = some fr.stop) ∧
  (∀ (c a : Byte) (s : State), s.sb.length ≤ 253 →
    ∃ len t u, exec (.longNew c a) s = .next t ∧ exec .encode t = .next u ∧ len.toNat = s.sb.length + 2 ∧
      u.tx = s.tx ++ [[0x68, len, len, 0x68, c, a] ++ s.sb ++ [sum8 ([c, a] ++ s.sb), 0x16]])

/-- R122, R135: after construction the markers stand in their places, and after a FIELD_WRITE each place holds what was
written to it. -/
def Obligations.MarkersAndFieldWritesOnTheWire : Prop :=
  (∀ (c a : Byte) (s t : State), exec (.shortNew c a) s = .next t →
    ∃ bytes, ser t.fr = some bytes ∧ bytes.head? = some 0x10 ∧ bytes.getLast? = some 0x16 ∧ bytes[2]? = some a) ∧
  (∀ (c a : Byte) (s t : State), exec (.longNew c a) s = .next t →
    ∃ bytes, ser t.fr = some bytes ∧ bytes.head? = some 0x68 ∧ bytes[3]? = some 0x68 ∧
      bytes.getLast? = some 0x16 ∧ bytes[1]? = bytes[2]?) ∧
  (∀ (f v : Byte) (s t : State), s.fault = false → exec (.fieldWrite f v) s = .next t → t.fault = false →
    ∃ bytes, ser t.fr = some bytes ∧
      (s.fr.kind = .short → bytes[if f = 0 then 0 else f.toNat - 3]? = some v) ∧
      (s.fr.kind = .long → bytes[if f.toNat ≤ 5 then f.toNat else f.toNat + s.fr.payload.length]? = some v))

/-- R76: the first bytes of a newly constructed frame tell its kind and its total length. -/
def Obligations.ReceiverCanTellKindAndLength : Prop :=
  ∀ (i : Instr) (s t u : State), s.sb.length ≤ 253 →
    (i = .ackNew ∨ i = .nackNew ∨ (∃ c a, i = .shortNew c a) ∨ (∃ c a, i = .longNew c a)) →
    exec i s = .next t → exec .encode t = .next u →
    ∃ bytes, u.tx = s.tx ++ [bytes] ∧ wireShape bytes = some (t.fr.kind, bytes.length) ∧
      (∀ c a, i = .longNew c a → bytes.length = 8 + s.sb.length)

/-- R56: ENCODE is not idempotent on TX, and two in a row append identical frames. -/
def Obligations.EncodingTwiceAppendsEqualFrames : Prop :=
  ∀ s t u : State, s.fr.kind ≠ .none → exec .encode s = .next t → exec .encode t = .next u →
    ∃ bytes, bytes ≠ [] ∧ t.tx = s.tx ++ [bytes] ∧ u.tx = s.tx ++ [bytes, bytes] ∧ u.fr = s.fr

/-! ## The register view -/

/-- R40: the register view, offset by offset. The counts are within their range (R22, R26). -/
def Obligations.RegisterViewMap : Prop :=
  ∀ s : State,
    viewRead s 0x000 = (if s.fault then 1 else 0) ∧
    viewRead s 0x001 = s.cause ∧
    viewRead s 0x002 = (match s.fr.kind with | .none => 0 | .ack => 1 | .nack => 2 | .short => 3 | .long => 4) ∧
    (s.sb.length ≤ 253 → (viewRead s 0x003).toNat = s.sb.length) ∧
    (s.fr.payload.length ≤ 253 → (viewRead s 0x004).toNat = s.fr.payload.length) ∧
    (viewRead s 0x005 = s.fr.start ∧ viewRead s 0x006 = s.fr.length ∧ viewRead s 0x007 = s.fr.lengthRepeat ∧
      viewRead s 0x008 = s.fr.startRepeat ∧ viewRead s 0x009 = s.fr.control ∧ viewRead s 0x00A = s.fr.address ∧
      viewRead s 0x00B = s.fr.checksum ∧ viewRead s 0x00C = s.fr.stop) ∧
    (viewRead s 0x010 = s.fcmd.extractLsb' 24 8 ∧ viewRead s 0x011 = s.fcmd.extractLsb' 16 8 ∧
      viewRead s 0x012 = s.fcmd.extractLsb' 8 8 ∧ viewRead s 0x013 = s.fcmd.extractLsb' 0 8) ∧
    (∀ a : BitVec 10,
      (0x00D ≤ a.toNat ∧ a.toNat ≤ 0x00F ∨ 0x014 ≤ a.toNat ∧ a.toNat ≤ 0x0FF ∨
        0x1FD ≤ a.toNat ∧ a.toNat ≤ 0x1FF ∨ 0x2FD ≤ a.toNat → viewRead s a = 0x00) ∧
      (∀ k, k ≤ 252 → a.toNat = 0x100 + k → viewRead s a = (s.fr.payload[k]?).getD 0x00) ∧
      (∀ k, k ≤ 252 → a.toNat = 0x200 + k → viewRead s a = (s.sb[k]?).getD 0x00))

/-- R40, R214: the whole state of the block but TX can be read through the view: two states of runs that no offset tells
apart have the same frame register, staging buffer and fault latch. -/
def Obligations.ViewDeterminesTheBlock : Prop :=
  ∀ s t : State, BlockInv s → BlockInv t → (∀ a : BitVec 10, viewRead s a = viewRead t a) →
    s.fr = t.fr ∧ s.sb = t.sb ∧ s.fault = t.fault ∧ s.cause = t.cause ∧ s.fcmd = t.fcmd

/-! ## Atomicity and ordering -/

/-- R55, R41: every view read, wherever it falls among the accesses, sees the state after the whole events before it,
never a command half done, and changes nothing. So however often a viewer reads around a word, it sees the state before
the whole command and then the state after it: after a LONG_NEW the Long frame with its checksum, and TX gains a whole
serialised frame or nothing. -/
def Obligations.ViewReadsSeeWholeCommandsOnly : Prop :=
  ∀ s : State,
    (∀ xs : List Access, (serveAll xs s).1 = afterEvents (xs.filterMap Access.event?) s) ∧
    (∀ (before after : List Access) (a : BitVec 10),
      let seen := afterEvents (before.filterMap Access.event?) s
      (serveAll (before ++ .read a :: after) s).2 = (serveAll before s).2 ++ viewRead seen a :: (serveAll after seen).2) ∧
    (∀ w : Word, s.fault = false →
      ∃ t, stepWord w s = .next t ∧
        (t.tx = s.tx ∨ ∃ bytes, ser s.fr = some bytes ∧ t.tx = s.tx ++ [bytes]) ∧
        (∀ c a, decode w = .ok (.longNew c a) →
          t.fr.payload = s.sb ∧ t.sb = [] ∧ t.fr.checksum = sum8 ([c, a] ++ s.sb)) ∧
        ∀ before after : List (BitVec 10),
          (serveAll (before.map .read ++ .event (.command w) :: after.map .read) s).2 =
            before.map (viewRead s) ++ after.map (viewRead t))

/-- R62, read through R55 and R42: the legal words are those of the nine commands, none of them a load-reserved, a
store-conditional, a compare-and-swap or a semaphore command. No event returns a byte; whether a word faults, and on
what, is decided by the word, the kind and the counts, never by a byte the block holds or by a reservation; and a view
read with the FIELD_WRITE after it is no atomic pair: whatever accesses come between, the write lands. -/
def Obligations.NoAtomicReadModifyWrite : Prop :=
  (∀ (w : Word) (i : Instr), decode w = .ok i →
    i = .ackNew ∨ i = .nackNew ∨ (∃ c a, i = .shortNew c a) ∨ i = .payloadClear ∨ (∃ b, i = .payloadPush b) ∨
      (∃ c a, i = .longNew c a) ∨ i = .encode ∨ (∃ f v, i = .fieldWrite f v) ∨ (∃ k v, i = .payloadWrite k v)) ∧
  (∀ (es : List Event) (s : State), (serveAll (es.map .event) s).2 = []) ∧
  (∀ (w : Word) (s s' t t' : State), s.fault = false → s'.fault = false → s.fr.kind = s'.fr.kind →
    s.fr.payload.length = s'.fr.payload.length → s.sb.length = s'.sb.length →
    stepWord w s = .next t → stepWord w s' = .next t' →
    t.fault = t'.fault ∧ (t.fault = true → t.cause = t'.cause)) ∧
  (∀ (between : List Access) (f v : Byte) (a : BitVec 10) (s : State),
    let t := (serveAll between s).1
    a.toNat = 0x005 + f.toNat → t.fault = false →
    t.fr.kind = .long ∧ f.toNat ≤ 7 ∨ t.fr.kind = .short ∧ (f = 0 ∨ 4 ≤ f.toNat ∧ f.toNat ≤ 7) →
    (serveAll (.read a :: between ++ [.event (.command (encode (.fieldWrite f v))), .read a]) s).2 =
      viewRead s a :: (serveAll between s).2 ++ [v])
end

