-- ==== Sys2Proof/Laws/Access.lean ====
section
/-! SUPPORT. What an access does to the state and what it returns, and how sequences of accesses compose (R55, R60). -/

namespace Sys2Proof.Machine

@[simp] theorem serve_read_state (a : BitVec 10) (s : State) : (serve (.read a) s).1 = s := rfl
@[simp] theorem serve_read_bytes (a : BitVec 10) (s : State) : (serve (.read a) s).2 = [viewRead s a] := rfl
@[simp] theorem serve_event_state (e : Event) (s : State) : (serve (.event e) s).1 = afterEvent s e := rfl
@[simp] theorem serve_event_bytes (e : Event) (s : State) : (serve (.event e) s).2 = [] := rfl

/-- Everything an event can do: the block stands in the next state of its answer, or there is no step and nothing
changes (R204). -/
theorem afterEvent_cases (s : State) (e : Event) :
    react e s = .next (afterEvent s e) ∨ (∀ t, react e s ≠ .next t) ∧ afterEvent s e = s := by
  unfold afterEvent
  split <;> simp_all

/-- Where a presented word has a step, the block stands in its next state. -/
theorem afterEvent_of_stepWord {s t : State} {w : Word} (h : stepWord w s = .next t) :
    afterEvent s (.command w) = t := by
  simp [afterEvent, react, h]

/-- A sequence of accesses served in two parts. -/
theorem serveAll_append (xs ys : List Access) (s : State) :
    serveAll (xs ++ ys) s =
      ((serveAll ys (serveAll xs s).1).1, (serveAll xs s).2 ++ (serveAll ys (serveAll xs s).1).2) := by
  induction xs generalizing s with
  | nil => rfl
  | cons x xs ih => simp [serveAll, ih]

end Sys2Proof.Machine
end

