-- ==== Sys2Proof/Laws/Decode.lean ====
section
/-! SUPPORT. A word and its four byte fields (R70), and what it takes to be accepted in a form (R72). -/

namespace Sys2Proof

/-- A word as a number, from its four bytes (R70). -/
theorem packWord_toNat (op b1 b2 b3 : Byte) :
    (packWord op b1 b2 b3).toNat = op.toNat * 16777216 + b1.toNat * 65536 + b2.toNat * 256 + b3.toNat := by
  have h1 := b1.isLt
  have h2 := b2.isLt
  have h3 := b3.isLt
  show (op ++ b1 ++ b2 ++ b3 : BitVec (8 + 8 + 8 + 8)).toNat = _
  rw [BitVec.toNat_append, BitVec.toNat_append, BitVec.toNat_append,
    ← Nat.shiftLeft_add_eq_or_of_lt h1, ← Nat.shiftLeft_add_eq_or_of_lt h2, ← Nat.shiftLeft_add_eq_or_of_lt h3]
  simp only [Nat.shiftLeft_eq]
  omega

@[simp] theorem opByte_packWord (op b1 b2 b3 : Byte) : opByte (packWord op b1 b2 b3) = op := by
  apply BitVec.eq_of_toNat_eq
  simp only [opByte, BitVec.extractLsb'_toNat, packWord_toNat, Nat.shiftRight_eq_div_pow]
  omega

@[simp] theorem byte1_packWord (op b1 b2 b3 : Byte) : byte1 (packWord op b1 b2 b3) = b1 := by
  apply BitVec.eq_of_toNat_eq
  simp only [byte1, BitVec.extractLsb'_toNat, packWord_toNat, Nat.shiftRight_eq_div_pow]
  omega

@[simp] theorem byte2_packWord (op b1 b2 b3 : Byte) : byte2 (packWord op b1 b2 b3) = b2 := by
  apply BitVec.eq_of_toNat_eq
  simp only [byte2, BitVec.extractLsb'_toNat, packWord_toNat, Nat.shiftRight_eq_div_pow]
  omega

@[simp] theorem byte3_packWord (op b1 b2 b3 : Byte) : byte3 (packWord op b1 b2 b3) = b3 := by
  apply BitVec.eq_of_toNat_eq
  simp only [byte3, BitVec.extractLsb'_toNat, packWord_toNat, Nat.shiftRight_eq_div_pow]
  omega

/-- A word is its four bytes. -/
@[simp] theorem packWord_bytes (w : Word) : packWord (opByte w) (byte1 w) (byte2 w) (byte3 w) = w := by
  simp only [opByte, byte1, byte2, byte3, packWord]
  ext i hi
  simp only [BitVec.getElem_append, BitVec.getElem_extractLsb']
  split
  · simp [BitVec.getLsbD_eq_getElem, hi]
  · split
    · rw [show 8 + (i - 8) = i by omega, BitVec.getLsbD_eq_getElem]
    · split
      · rw [show 16 + (i - 8 - 8) = i by omega, BitVec.getLsbD_eq_getElem]
      · rw [show 24 + (i - 8 - 8 - 8) = i by omega, BitVec.getLsbD_eq_getElem]

/-- A word is accepted as a command when its reserved bytes are zero, and then as that command (R75). -/
theorem acceptForm_eq_ok {w : Word} {i j : Instr} :
    acceptForm w i = .ok j ↔ i.form.reservedZero (byte1 w) (byte2 w) (byte3 w) = true ∧ i = j := by
  unfold acceptForm
  split <;> simp_all

end Sys2Proof
end

