-- ==== Sys2Proof/Laws/State.lean ====
section
/-! SUPPORT. What each update of the state leaves in each field, one lemma per field per update, and the same for the
writes of the frame register. -/

namespace Sys2Proof.Machine

@[simp] theorem State.latch_fr (s : State) (c : Cause) (w : Word) : (s.latch c w).fr = s.fr := rfl
@[simp] theorem State.latch_sb (s : State) (c : Cause) (w : Word) : (s.latch c w).sb = s.sb := rfl
@[simp] theorem State.latch_fault (s : State) (c : Cause) (w : Word) : (s.latch c w).fault = true := rfl
@[simp] theorem State.latch_cause (s : State) (c : Cause) (w : Word) : (s.latch c w).cause = c.code := rfl
@[simp] theorem State.latch_fcmd (s : State) (c : Cause) (w : Word) : (s.latch c w).fcmd = w := rfl
@[simp] theorem State.latch_tx (s : State) (c : Cause) (w : Word) : (s.latch c w).tx = s.tx := rfl
@[simp] theorem State.latch_prog (s : State) (c : Cause) (w : Word) : (s.latch c w).prog = s.prog := rfl
@[simp] theorem State.latch_pc (s : State) (c : Cause) (w : Word) : (s.latch c w).pc = s.pc := rfl

@[simp] theorem State.setFrame_fr (s : State) (fr : FrameReg) : (s.setFrame fr).fr = fr := rfl
@[simp] theorem State.setFrame_sb (s : State) (fr : FrameReg) : (s.setFrame fr).sb = s.sb := rfl
@[simp] theorem State.setFrame_fault (s : State) (fr : FrameReg) : (s.setFrame fr).fault = s.fault := rfl
@[simp] theorem State.setFrame_cause (s : State) (fr : FrameReg) : (s.setFrame fr).cause = s.cause := rfl
@[simp] theorem State.setFrame_fcmd (s : State) (fr : FrameReg) : (s.setFrame fr).fcmd = s.fcmd := rfl
@[simp] theorem State.setFrame_tx (s : State) (fr : FrameReg) : (s.setFrame fr).tx = s.tx := rfl
@[simp] theorem State.setFrame_prog (s : State) (fr : FrameReg) : (s.setFrame fr).prog = s.prog := rfl
@[simp] theorem State.setFrame_pc (s : State) (fr : FrameReg) : (s.setFrame fr).pc = s.pc := rfl

@[simp] theorem State.setStaging_fr (s : State) (sb : List Byte) : (s.setStaging sb).fr = s.fr := rfl
@[simp] theorem State.setStaging_sb (s : State) (sb : List Byte) : (s.setStaging sb).sb = sb := rfl
@[simp] theorem State.setStaging_fault (s : State) (sb : List Byte) : (s.setStaging sb).fault = s.fault := rfl
@[simp] theorem State.setStaging_cause (s : State) (sb : List Byte) : (s.setStaging sb).cause = s.cause := rfl
@[simp] theorem State.setStaging_fcmd (s : State) (sb : List Byte) : (s.setStaging sb).fcmd = s.fcmd := rfl
@[simp] theorem State.setStaging_tx (s : State) (sb : List Byte) : (s.setStaging sb).tx = s.tx := rfl
@[simp] theorem State.setStaging_prog (s : State) (sb : List Byte) : (s.setStaging sb).prog = s.prog := rfl
@[simp] theorem State.setStaging_pc (s : State) (sb : List Byte) : (s.setStaging sb).pc = s.pc := rfl

@[simp] theorem State.emit_fr (s : State) (bytes : List Byte) : (s.emit bytes).fr = s.fr := rfl
@[simp] theorem State.emit_sb (s : State) (bytes : List Byte) : (s.emit bytes).sb = s.sb := rfl
@[simp] theorem State.emit_fault (s : State) (bytes : List Byte) : (s.emit bytes).fault = s.fault := rfl
@[simp] theorem State.emit_cause (s : State) (bytes : List Byte) : (s.emit bytes).cause = s.cause := rfl
@[simp] theorem State.emit_fcmd (s : State) (bytes : List Byte) : (s.emit bytes).fcmd = s.fcmd := rfl
@[simp] theorem State.emit_tx (s : State) (bytes : List Byte) : (s.emit bytes).tx = s.tx ++ [bytes] := rfl
@[simp] theorem State.emit_prog (s : State) (bytes : List Byte) : (s.emit bytes).prog = s.prog := rfl
@[simp] theorem State.emit_pc (s : State) (bytes : List Byte) : (s.emit bytes).pc = s.pc := rfl

@[simp] theorem State.withFetchWord_fr (s : State) (nbits w : Nat) : (s.withFetchWord nbits w).fr = s.fr := rfl
@[simp] theorem State.withFetchWord_sb (s : State) (nbits w : Nat) : (s.withFetchWord nbits w).sb = s.sb := rfl
@[simp] theorem State.withFetchWord_fault (s : State) (nbits w : Nat) : (s.withFetchWord nbits w).fault = s.fault := rfl
@[simp] theorem State.withFetchWord_cause (s : State) (nbits w : Nat) : (s.withFetchWord nbits w).cause = s.cause := rfl
@[simp] theorem State.withFetchWord_fcmd (s : State) (nbits w : Nat) : (s.withFetchWord nbits w).fcmd = s.fcmd := rfl
@[simp] theorem State.withFetchWord_tx (s : State) (nbits w : Nat) : (s.withFetchWord nbits w).tx = s.tx := rfl
@[simp] theorem State.withFetchWord_pc (s : State) (nbits w : Nat) : (s.withFetchWord nbits w).pc = s.pc := rfl

@[simp] theorem assertReset_fr (s : State) : (assertReset s).fr = FrameReg.reset := rfl
@[simp] theorem assertReset_sb (s : State) : (assertReset s).sb = [] := rfl
@[simp] theorem assertReset_fault (s : State) : (assertReset s).fault = false := rfl
@[simp] theorem assertReset_cause (s : State) : (assertReset s).cause = 0 := rfl
@[simp] theorem assertReset_fcmd (s : State) : (assertReset s).fcmd = 0 := rfl
@[simp] theorem assertReset_tx (s : State) : (assertReset s).tx = [] := rfl
@[simp] theorem assertReset_prog (s : State) : (assertReset s).prog = s.prog := rfl
@[simp] theorem assertReset_pc (s : State) : (assertReset s).pc = 0 := rfl

@[simp] theorem loadProgram_fr (prog : List Word) (s : State) : (loadProgram prog s).fr = s.fr := rfl
@[simp] theorem loadProgram_sb (prog : List Word) (s : State) : (loadProgram prog s).sb = s.sb := rfl
@[simp] theorem loadProgram_fault (prog : List Word) (s : State) : (loadProgram prog s).fault = s.fault := rfl
@[simp] theorem loadProgram_cause (prog : List Word) (s : State) : (loadProgram prog s).cause = s.cause := rfl
@[simp] theorem loadProgram_fcmd (prog : List Word) (s : State) : (loadProgram prog s).fcmd = s.fcmd := rfl
@[simp] theorem loadProgram_tx (prog : List Word) (s : State) : (loadProgram prog s).tx = s.tx := rfl
@[simp] theorem loadProgram_prog (prog : List Word) (s : State) : (loadProgram prog s).prog = prog := rfl
@[simp] theorem loadProgram_pc (prog : List Word) (s : State) : (loadProgram prog s).pc = 0 := rfl

@[simp] theorem FrameReg.put_kind (fr : FrameReg) (fld : FieldName) (v : Byte) : (fr.put fld v).kind = fr.kind := by
  cases fld <;> rfl

@[simp] theorem FrameReg.put_payload (fr : FrameReg) (fld : FieldName) (v : Byte) :
    (fr.put fld v).payload = fr.payload := by
  cases fld <;> rfl

/-- A field write is read back from that field. -/
@[simp] theorem FrameReg.get_put_same (fr : FrameReg) (fld : FieldName) (v : Byte) : (fr.put fld v).get fld = v := by
  cases fld <;> rfl

/-- A field write leaves every other field (R160). -/
theorem FrameReg.get_put_of_ne (fr : FrameReg) {fld other : FieldName} (h : other ≠ fld) (v : Byte) :
    (fr.put fld v).get other = fr.get other := by
  cases fld <;> cases other <;> first | rfl | exact absurd rfl h

@[simp] theorem FrameReg.putPayload_kind (fr : FrameReg) (i v : Byte) : (fr.putPayload i v).kind = fr.kind := rfl

@[simp] theorem FrameReg.putPayload_payload (fr : FrameReg) (i v : Byte) :
    (fr.putPayload i v).payload = fr.payload.set i.toNat v := rfl

@[simp] theorem FrameReg.putPayload_get (fr : FrameReg) (i v : Byte) (fld : FieldName) :
    (fr.putPayload i v).get fld = fr.get fld := by
  cases fld <;> rfl

end Sys2Proof.Machine
end

