-- ==== Sys2Proof/Laws/Ops.lean ====
section
/-! SUPPORT. What each shared operation can answer, said once, and what each meaning is in each of its cases. -/

namespace Sys2Proof.Machine

@[simp] theorem stagingCap_eq : Config.stagingCap = 253 := rfl

/-- Taking a fault answers the latched state and nothing else (R201). -/
@[simp] theorem raiseFault_eq_next {c : Cause} {w : Word} {s t : State} :
    raiseFault c w s = .next t ↔ s.latch c w = t := by
  simp [raiseFault]

/-- Completing a command advances the index and does nothing else (R45). -/
@[simp] theorem complete_eq_next {s t : State} : complete s = .next t ↔ { s with pc := s.pc + 1 } = t := by
  simp [complete]

/-- The codes of the five causes differ (R200). -/
theorem Cause.code_injective {c d : Cause} (h : c.code = d.code) : c = d := by
  revert h; cases c <;> cases d <;> decide

/-- A field-select code selects the field whose code it is (R22). -/
theorem FieldName.ofCode?_eq_some {f : Byte} {fld : FieldName} : FieldName.ofCode? f = some fld ↔ f = fld.code := by
  constructor
  · intro h
    unfold FieldName.ofCode? at h
    split at h <;> cases h <;> rfl
  · rintro rfl
    cases fld <;> rfl

/-- A code of 8 or more selects no field (R22, R160). -/
theorem FieldName.ofCode?_eq_none {f : Byte} : FieldName.ofCode? f = none ↔ 8 ≤ f.toNat := by
  revert f; decide

/-- `f` is in `valid(kind)` exactly when it is the code of a field the kind has (R160). -/
theorem Kind.selectField_eq_some {k : Kind} {f : Byte} {fld : FieldName} :
    k.selectField f = some fld ↔ f = fld.code ∧ k.hasField fld = true := by
  unfold Kind.selectField
  cases h : FieldName.ofCode? f with
  | none =>
    refine iff_of_false (by simp) ?_
    rintro ⟨hf, -⟩
    rw [FieldName.ofCode?_eq_some.mpr hf] at h
    cases h
  | some g =>
    obtain rfl := FieldName.ofCode?_eq_some.mp h
    by_cases hg : k.hasField g = true
    · simp only [hg, if_true, Option.some.injEq]
      constructor
      · rintro rfl; exact ⟨rfl, hg⟩
      · rintro ⟨hc, -⟩
        have := FieldName.ofCode?_eq_some.mpr hc
        rw [h] at this
        exact Option.some.inj this
    · simp only [hg, if_false, Bool.false_eq_true]
      refine iff_of_false (by simp) ?_
      rintro ⟨hc, hf⟩
      have := FieldName.ofCode?_eq_some.mpr hc
      rw [h] at this
      cases this
      exact hg hf

/-- PAYLOAD_PUSH into a full staging buffer (R131). -/
theorem execPayloadPush_full {b : Byte} {s : State} (h : s.sb.length = 253) :
    execPayloadPush b s = .next (s.latch .payloadOverflow (encode (.payloadPush b))) := by
  simp [execPayloadPush, h, raiseFault]

/-- PAYLOAD_PUSH where there is room (R131). -/
theorem execPayloadPush_room {b : Byte} {s : State} (h : s.sb.length ≠ 253) :
    execPayloadPush b s = complete (s.setStaging (s.sb ++ [b])) := by
  simp [execPayloadPush, h]

/-- ENCODE of the empty register (R151). -/
theorem execEncode_none {s : State} (h : ser s.fr = none) :
    execEncode s = .next (s.latch .noFrame (encode .encode)) := by
  simp [execEncode, h, raiseFault]

/-- ENCODE of a frame (R151). -/
theorem execEncode_some {s : State} {bytes : List Byte} (h : ser s.fr = some bytes) :
    execEncode s = complete (s.emit bytes) := by
  simp [execEncode, h]

/-- FIELD_WRITE of a field that the kind has (R160). -/
theorem execFieldWrite_valid {f v : Byte} {s : State} {fld : FieldName} (h : s.fr.kind.selectField f = some fld) :
    execFieldWrite f v s = complete (s.setFrame (s.fr.put fld v)) := by
  simp [execFieldWrite, h]

/-- FIELD_WRITE of any other code (R160). -/
theorem execFieldWrite_invalid {f v : Byte} {s : State} (h : s.fr.kind.selectField f = none) :
    execFieldWrite f v s = .next (s.latch .badField (encode (.fieldWrite f v))) := by
  simp [execFieldWrite, h, raiseFault]

/-- The index check in words (R161). -/
theorem FrameReg.hasIndex_iff {fr : FrameReg} {i : Byte} :
    fr.hasIndex i = true ↔ fr.kind = .long ∧ i.toNat < fr.payload.length := by
  simp [FrameReg.hasIndex]

/-- PAYLOAD_WRITE of a payload byte (R161). -/
theorem execPayloadWrite_valid {i v : Byte} {s : State} (h : s.fr.hasIndex i = true) :
    execPayloadWrite i v s = complete (s.setFrame (s.fr.putPayload i v)) := by
  simp [execPayloadWrite, h]

/-- PAYLOAD_WRITE at any other index or kind (R161). -/
theorem execPayloadWrite_invalid {i v : Byte} {s : State} (h : s.fr.hasIndex i = false) :
    execPayloadWrite i v s = .next (s.latch .badIndex (encode (.payloadWrite i v))) := by
  simp [execPayloadWrite, h, raiseFault]

/-- `ser` fails for the empty register only (R150). -/
theorem ser_eq_none {fr : FrameReg} : ser fr = none ↔ fr.kind = .none := by
  cases fr with
  | mk kind => cases kind <;> simp [ser]

/-- A serialised frame is not empty (R35). -/
theorem ser_ne_nil {fr : FrameReg} {bytes : List Byte} (h : ser fr = some bytes) : bytes ≠ [] := by
  cases fr with
  | mk kind => cases kind <;> simp_all [ser] <;> (subst h; simp)

/-- The byte a full word placed for the fetch is the word presented (R45). -/
theorem presentWord_presented (s : State) (w : Word) : (s.presentWord w).presented = some w := by
  have hlen : (s.prog.take s.pc ++ List.replicate (s.pc - s.prog.length) (0 : Word)).length = s.pc := by
    simp; omega
  show (s.prog.take s.pc ++ List.replicate (s.pc - s.prog.length) 0 ++ w :: s.prog.drop (s.pc + 1))[s.pc]? = some w
  rw [List.getElem?_append_right (by omega), hlen]
  simp

end Sys2Proof.Machine
end

