-- ==== Sys2Proof/Laws/PerInstr.lean ====
section
/-! SUPPORT. Facts about every command as syntax, one lemma per constructor. -/

namespace Sys2Proof.Laws.EncodingFields

/-- The bytes of a command's word: its opcode, its operands, and zero in every byte its form reserves (R70, R72). -/
def Statement (i : Instr) : Prop :=
  opByte (encode i) = i.opcode ∧ (byte1 (encode i), byte2 (encode i)) = i.operands ∧
    i.form.reservedZero (byte1 (encode i)) (byte2 (encode i)) (byte3 (encode i)) = true ∧ i.wellFormed = true

theorem ackNew : Statement .ackNew := by
  simp [Statement, Sys2Proof.encode, Instr.opcode, Instr.operands, Instr.form, Instr.wellFormed, OperandForm.reservedZero]

theorem nackNew : Statement .nackNew := by
  simp [Statement, Sys2Proof.encode, Instr.opcode, Instr.operands, Instr.form, Instr.wellFormed, OperandForm.reservedZero]

theorem shortNew (c a : Byte) : Statement (.shortNew c a) := by
  simp [Statement, Sys2Proof.encode, Instr.opcode, Instr.operands, Instr.form, Instr.wellFormed, OperandForm.reservedZero]

theorem payloadClear : Statement .payloadClear := by
  simp [Statement, Sys2Proof.encode, Instr.opcode, Instr.operands, Instr.form, Instr.wellFormed, OperandForm.reservedZero]

theorem payloadPush (b : Byte) : Statement (.payloadPush b) := by
  simp [Statement, Sys2Proof.encode, Instr.opcode, Instr.operands, Instr.form, Instr.wellFormed, OperandForm.reservedZero]

theorem longNew (c a : Byte) : Statement (.longNew c a) := by
  simp [Statement, Sys2Proof.encode, Instr.opcode, Instr.operands, Instr.form, Instr.wellFormed, OperandForm.reservedZero]

theorem encode : Statement .encode := by
  simp [Statement, Sys2Proof.encode, Instr.opcode, Instr.operands, Instr.form, Instr.wellFormed, OperandForm.reservedZero]

theorem fieldWrite (f v : Byte) : Statement (.fieldWrite f v) := by
  simp [Statement, Sys2Proof.encode, Instr.opcode, Instr.operands, Instr.form, Instr.wellFormed, OperandForm.reservedZero]

theorem payloadWrite (i v : Byte) : Statement (.payloadWrite i v) := by
  simp [Statement, Sys2Proof.encode, Instr.opcode, Instr.operands, Instr.form, Instr.wellFormed, OperandForm.reservedZero]

end Sys2Proof.Laws.EncodingFields
end

