-- ==== Sys2Proof/Laws/View.lean ====
section
/-! SUPPORT. The register view region by region (R40), so that no later proof unfolds the whole map. -/

namespace Sys2Proof.Machine

/-- The registers lie below 0x100. -/
theorem viewByte_register (s : State) {a : Nat} (h : a < 0x100) : viewByte s a = registerByte s a := by
  simp [viewByte, h]

/-- PAYLOAD[k]. -/
theorem viewByte_payload (s : State) {k : Nat} (h : k ≤ 252) :
    viewByte s (0x100 + k) = (s.fr.payload[k]?).getD 0 := by
  rw [viewByte, if_neg (by omega), if_pos (by omega), Nat.add_sub_cancel_left, byteOrZero, List.getD_eq_getElem?_getD]

/-- STAGE[k]. -/
theorem viewByte_stage (s : State) {k : Nat} (h : k ≤ 252) : viewByte s (0x200 + k) = (s.sb[k]?).getD 0 := by
  rw [viewByte, if_neg (by omega), if_neg (by omega), if_neg (by omega), if_pos (by omega), Nat.add_sub_cancel_left,
    byteOrZero, List.getD_eq_getElem?_getD]

/-- The reserved offsets at and above 0x100. -/
theorem viewByte_reserved (s : State) {a : Nat} (h : 0x1FD ≤ a ∧ a < 0x200 ∨ 0x2FD ≤ a) : viewByte s a = 0 := by
  rcases h with h | h
  · rw [viewByte, if_neg (by omega), if_neg (by omega), if_pos (by omega)]
  · rw [viewByte, if_neg (by omega), if_neg (by omega), if_neg (by omega), if_neg (by omega)]

/-- The reserved offsets below 0x100. -/
theorem registerByte_reserved (s : State) {a : Nat} (h : 0x00D ≤ a ∧ a < 0x010 ∨ 0x014 ≤ a) : registerByte s a = 0 := by
  simp only [registerByte]
  iterate 10 rw [if_neg (by omega)]

/-- Each scalar field stands at 0x005 plus its field-select code (R22). -/
theorem registerByte_field (s : State) (fld : FieldName) : registerByte s (0x005 + fld.code.toNat) = s.fr.get fld := by
  cases fld <;> rfl

/-- An offset below 0x100 is a status offset, a count, the offset of a field, an FCMD offset or reserved. -/
theorem register_offset_cases {a : Nat} (h : a < 0x100) :
    a ≤ 0x004 ∨ (∃ fld : FieldName, a = 0x005 + fld.code.toNat) ∨ (0x010 ≤ a ∧ a ≤ 0x013) ∨
      (0x00D ≤ a ∧ a < 0x010 ∨ 0x014 ≤ a) := by
  rcases Nat.lt_or_ge a 0x005 with h5 | h5
  · exact .inl (by omega)
  rcases Nat.lt_or_ge a 0x00D with hd | hd
  · refine .inr (.inl ?_)
    have : a = 5 ∨ a = 6 ∨ a = 7 ∨ a = 8 ∨ a = 9 ∨ a = 10 ∨ a = 11 ∨ a = 12 := by omega
    rcases this with rfl | rfl | rfl | rfl | rfl | rfl | rfl | rfl
    · exact ⟨.start, rfl⟩
    · exact ⟨.length, rfl⟩
    · exact ⟨.lengthRepeat, rfl⟩
    · exact ⟨.startRepeat, rfl⟩
    · exact ⟨.control, rfl⟩
    · exact ⟨.address, rfl⟩
    · exact ⟨.checksum, rfl⟩
    · exact ⟨.stop, rfl⟩
  · omega

/-- The five offsets before the fields and the four of FCMD show the latch, the kind and the counts only. -/
theorem registerByte_congr {s t : State} {a : Nat} (h : a ≤ 0x004 ∨ 0x00D ≤ a) (h1 : s.fault = t.fault)
    (h2 : s.cause = t.cause) (h3 : s.fcmd = t.fcmd) (h4 : a = 0x002 → s.fr.kind = t.fr.kind)
    (h5 : a = 0x003 → s.sb.length = t.sb.length) (h6 : a = 0x004 → s.fr.payload.length = t.fr.payload.length) :
    registerByte s a = registerByte t a := by
  unfold registerByte
  refine ite_congr rfl (fun _ => by rw [statusByte, statusByte, h1]) fun _ => ?_
  refine ite_congr rfl (fun _ => h2) fun _ => ?_
  refine ite_congr rfl (fun ha => by rw [h4 ha]) fun _ => ?_
  refine ite_congr rfl (fun ha => by rw [h5 ha]) fun _ => ?_
  refine ite_congr rfl (fun ha => by rw [h6 ha]) fun _ => ?_
  refine ite_congr rfl (fun _ => by omega) fun _ => ?_
  rw [h3]

end Sys2Proof.Machine
end

