-- ==== Sys2Proof/Tests/Slice0.lean ====
section
/-! SUPPORT. The model's own tests. Expected values come from spec/95_test_vectors.md or by hand from the rule named.
A `witness_…` theorem shows that the hypotheses of the statement of that name can be met, at the edges of its clauses. -/

namespace Sys2Proof.Tests

open Sys2Proof Sys2Proof.Machine

/-- The next state of an outcome; the reset state where there is none (each test looks at a field that tells). -/
def after : Outcome → State
  | .next t => t
  | .fault _ => State.reset
  | .refused _ => State.reset

/-- A reset block with a frame and staged bytes. -/
def holding (fr : FrameReg) (sb : List Byte) : State := { State.reset with fr := fr, sb := sb }

/-- A reset block whose issuer presents one word. -/
def given (w : Word) : State := { State.reset with prog := [w] }

/-- The Long frame of §8 scenario 2. -/
def scenario2 : FrameReg := longFrame 0x44 0x01 [0x01, 0x02, 0x03]

/-- A halted block: the vector of L2.5, ENCODE straight after reset. -/
def halted : State := { given 0x07000000 with fault := true, cause := 0x03, fcmd := 0x07000000 }

/-! ### Decoding: words written bit by bit from R70 and R73 -/

theorem test_decode_ack_new : decode 0b00000001000000000000000000000000 = .ok .ackNew := by rfl
theorem test_decode_nack_new : decode 0b00000010000000000000000000000000 = .ok .nackNew := by rfl
theorem test_decode_short_new : decode 0b00000011010000000000000100000000 = .ok (.shortNew 0x40 0x01) := by rfl
theorem test_decode_payload_clear : decode 0b00000100000000000000000000000000 = .ok .payloadClear := by rfl
theorem test_decode_payload_push : decode 0b00000101100110010000000000000000 = .ok (.payloadPush 0x99) := by rfl
theorem test_decode_long_new : decode 0b00000110010001000000000100000000 = .ok (.longNew 0x44 0x01) := by rfl
theorem test_decode_encode : decode 0b00000111000000000000000000000000 = .ok .encode := by rfl
theorem test_decode_field_write : decode 0b00001000111111110000000000000000 = .ok (.fieldWrite 0xFF 0x00) := by rfl
theorem test_decode_payload_write : decode 0b00001001000000100111111100000000 = .ok (.payloadWrite 0x02 0x7F) := by rfl

/-- L2.8, each form of an illegal word. -/
theorem test_decode_illegal :
    decode 0x00000000 = .error .reservedOpcode ∧ decode 0x0A000000 = .error .reservedOpcode ∧
    decode 0xFF000000 = .error .reservedOpcode ∧ decode 0x01000001 = .error .reservedBits ∧
    decode 0x05010100 = .error .reservedBits ∧ decode 0x03FFFF01 = .error .reservedBits ∧
    decode 0x07000001 = .error .reservedBits := by
  refine ⟨?_, ?_, ?_, ?_, ?_, ?_, ?_⟩ <;> rfl

/-- R52: opcode byte first; fewer than four bytes are no word. -/
theorem test_decode_bytes :
    decodeBytes [0x05, 0x99, 0x00, 0x00, 0x07] = .ok (.payloadPush 0x99, [0x07]) ∧
    decodeBytes [0x05, 0x99, 0x00] = .error .partialWord := ⟨rfl, rfl⟩

theorem test_decode_table_word :
    decodeTableWord 32 0x03400100 = some (.shortNew 0x40 0x01) ∧ decodeTableWord 32 0x03400101 = none := by decide

/-- R79, both ways. -/
theorem test_encode : encode (.shortNew 0x40 0x01) = 0x03400100 ∧ encode (.payloadWrite 2 0x7F) = 0x09027F00 := by decide

/-! ### Well-formedness: a term that each check refuses (R72, R74) -/

theorem test_cmd0_refuses_operands :
    OperandForm.cmd0.reservedZero 1 0 0 = false ∧ OperandForm.cmd0.reservedZero 0 1 0 = false ∧
    OperandForm.cmd0.reservedZero 0 0 1 = false ∧ OperandForm.cmd0.reservedZero 0 0 0 = true := by decide
theorem test_cmd1_refuses_second_operand :
    OperandForm.cmd1.reservedZero 0xFF 1 0 = false ∧ OperandForm.cmd1.reservedZero 0xFF 0 1 = false ∧
    OperandForm.cmd1.reservedZero 0xFF 0 0 = true := by decide
theorem test_cmd2_refuses_third_byte :
    OperandForm.cmd2.reservedZero 0xFF 0xFF 1 = false ∧ OperandForm.cmd2.reservedZero 0xFF 0xFF 0 = true := by decide

/-! ### The checksum (L2.1) -/

theorem test_sum8 :
    sum8 [] = 0x00 ∧ sum8 [0xFF, 0x01] = 0x00 ∧ sum8 [0xFF, 0xFF] = 0xFE ∧ sum8 [0x7B, 0xFD] = 0x78 ∧
    sum8 [0x44, 0x01, 0x01, 0x02, 0x03] = 0x4B ∧ sum8 [0x08, 0x01, 0x16, 0x68, 0x10, 0xE5, 0xA2] = 0x1E := by decide
theorem test_sum8_long : sum8 (List.replicate 252 0xFF) = 0x04 := by decide +kernel

/-! ### The commands -/

/-- L2.2: no field of the Short frame survives. -/
theorem test_ack_new_clears :
    (after (exec .ackNew (holding (shortFrame 0x40 0x01) [7]))).fr = ⟨.ack, 0, 0, 0, 0, 0, 0, 0, 0, []⟩ ∧
    (after (exec .ackNew (holding (shortFrame 0x40 0x01) [7]))).sb = [7] := by decide
theorem test_nack_new : ser (after (exec .nackNew (holding scenario2 []))).fr = some [0xA2] := by decide
/-- L2.3: the checksum wraps to zero. -/
theorem test_short_new_wraps :
    (after (exec (.shortNew 0xFF 0x01) State.reset)).fr = ⟨.short, 0x10, 0, 0, 0, 0xFF, 0x01, 0x00, 0x16, []⟩ := by decide
theorem test_short_new_keeps_staging : (after (exec (.shortNew 0x01 0x02) (holding scenario2 [0xAA]))).sb = [0xAA] := by decide
/-- L2.4: PAYLOAD_CLEAR does not touch FR. -/
theorem test_payload_clear :
    (after (exec .payloadClear (holding scenario2 [9]))).sb = [] ∧
    (after (exec .payloadClear (holding scenario2 [9]))).fr = scenario2 := by decide
theorem test_payload_push_appends : (after (exec (.payloadPush 0x03) (holding scenario2 [1, 2]))).sb = [1, 2, 3] := by decide
/-- L2.4: the 254th push faults with code 02 and keeps SB. -/
theorem test_payload_push_overflow :
    (after (exec (.payloadPush 0x01) (holding FrameReg.reset (List.replicate 253 1)))) =
      { holding FrameReg.reset (List.replicate 253 1) with fault := true, cause := 0x02, fcmd := 0x05010000 } := by decide +kernel
/-- §8 scenario 2. -/
theorem test_long_new :
    (after (exec (.longNew 0x44 0x01) (holding FrameReg.reset [1, 2, 3]))).fr =
      ⟨.long, 0x68, 0x05, 0x05, 0x68, 0x44, 0x01, 0x4B, 0x16, [1, 2, 3]⟩ ∧
    (after (exec (.longNew 0x44 0x01) (holding FrameReg.reset [1, 2, 3]))).sb = [] := by decide
/-- L2.4: a full payload has length FF and checksum FD. -/
theorem test_long_new_full :
    (longFrame 0x00 0x00 (List.replicate 253 1)).length = 0xFF ∧
    (longFrame 0x00 0x00 (List.replicate 253 1)).checksum = 0xFD := by decide +kernel
theorem test_encode_long :
    (after (exec .encode (holding scenario2 []))).tx =
      [[0x68, 0x05, 0x05, 0x68, 0x44, 0x01, 0x01, 0x02, 0x03, 0x4B, 0x16]] := by decide
/-- L2.5. -/
theorem test_encode_no_frame :
    after (exec .encode State.reset) = { State.reset with fault := true, cause := 0x03, fcmd := 0x07000000 } := by decide
/-- L2.6: a stale checksum. -/
theorem test_field_write_control :
    ser (after (exec (.fieldWrite 4 0x53) (holding (shortFrame 0x40 0x01) []))).fr =
      some [0x10, 0x53, 0x01, 0x41, 0x16] := by decide
/-- L2.6: a Short frame has no length field. -/
theorem test_field_write_bad_field :
    after (exec (.fieldWrite 1 0x05) (holding (shortFrame 0x01 0x02) [])) =
      { holding (shortFrame 0x01 0x02) [] with fault := true, cause := 0x04, fcmd := 0x08010500 } := by decide
/-- L2.7. -/
theorem test_payload_write :
    ser (after (exec (.payloadWrite 2 0x7F) (holding scenario2 []))).fr =
      some [0x68, 0x05, 0x05, 0x68, 0x44, 0x01, 0x01, 0x02, 0x7F, 0x4B, 0x16] := by decide
/-- L2.7: one past the end. -/
theorem test_payload_write_bad_index :
    after (exec (.payloadWrite 3 0x7F) (holding scenario2 [])) =
      { holding scenario2 [] with fault := true, cause := 0x05, fcmd := 0x09037F00 } := by decide

/-! ### The step, the view, the assembler -/

/-- L2.8: the index stays at the faulting word. -/
theorem test_step_illegal : after (step (given 0x01000001)) = { given 0x01000001 with fault := true, cause := 0x01, fcmd := 0x01000001 } := by decide
theorem test_step_halted : step halted = .fault .halted := rfl
theorem test_step_fetch_word : (after (step (State.reset.withFetchWord 32 0x03400100))).fr = shortFrame 0x40 0x01 := by decide
/-- L2.10. -/
theorem test_view :
    ([0x000, 0x001, 0x002, 0x003, 0x004].map (viewRead (holding scenario2 []))) = [0x00, 0x00, 0x04, 0x00, 0x03] ∧
    ([0x005, 0x006, 0x007, 0x008, 0x009, 0x00A, 0x00B, 0x00C].map (viewRead (holding scenario2 []))) =
      [0x68, 0x05, 0x05, 0x68, 0x44, 0x01, 0x4B, 0x16] ∧
    ([0x100, 0x101, 0x102, 0x103, 0x200, 0x3FF].map (viewRead (holding scenario2 []))) =
      [0x01, 0x02, 0x03, 0x00, 0x00, 0x00] := by decide
/-- L2.10, after the overflow vector: the FCMD bytes and the last staged byte. -/
theorem test_view_overflow :
    [0x000, 0x001, 0x003, 0x010, 0x011, 0x012, 0x013, 0x2FC].map
      (viewRead { holding FrameReg.reset (List.replicate 253 1) with fault := true, cause := 0x02, fcmd := 0x05010000 }) =
      [0x01, 0x02, 0xFD, 0x05, 0x01, 0x00, 0x00, 0x01] := by decide +kernel
/-- P2 of 95_test_vectors.md: the expansion of LONG, with a comment. -/
theorem test_assemble_long :
    assembleLine "LONG 0x44, 1, [0x01, 0x02, 3] ; scenario 2" =
      .ok [0x04000000, 0x05010000, 0x05020000, 0x05030000, 0x06440100] := by rfl
theorem test_assemble_refuses :
    assembleLine "SHORT_NEW 256, 0" = .error .operandRange ∧ assembleLine "SHORT_NEW 1" = .error .operandCount ∧
    assembleLine "PAYLOAD_WRITE checksum, 0" = .error .operandForm ∧ assembleLine "NOP" = .error .unknownMnemonic ∧
    assembleLine "; only a comment" = .ok [] := by
  refine ⟨?_, ?_, ?_, ?_, ?_⟩ <;> rfl
/-- P1 of 95_test_vectors.md, and R77: one wrong line gives no words. -/
theorem test_assemble_program :
    assemble ["SEND_SHORT 0x40, 0x01", "SEND_ACK"] = .ok [0x03400100, 0x07000000, 0x01000000, 0x07000000] ∧
    assemble ["SEND_ACK", "ENCODE 1"] = .error .operandCount := ⟨rfl, rfl⟩

/-! ### Witnesses: states and operands that meet each statement's hypotheses -/

theorem witness_EncodeOfDecode : decode 0x09027F00 = .ok (.payloadWrite 2 0x7F) := by rfl
theorem witness_IllegalWordsAreTheUnassignedOnes :
    State.reset.fault = false ∧ decode 0x0A000000 = .error .reservedOpcode ∧ decode 0x09000001 = .error .reservedBits :=
  ⟨rfl, rfl, rfl⟩
theorem witness_AssemblerRefusesBadOperands :
    [AsmOperand.number 0].length ≠ 2 ∧ (256 ≤ 256 ∧ AsmOperand.number 256 ∈ [AsmOperand.number 256]) ∧
    (256 ≤ 256 ∧ 256 ∈ [1, 256] ∧ AsmOperand.list [1, 256] ∈ [AsmOperand.list [1, 256]]) := by decide
theorem witness_PseudoInstructionsExpand :
    ([] : List Byte).length ≤ 253 ∧ (List.replicate 253 (0 : Byte)).length ≤ 253 ∧
    253 < (List.replicate 254 (0 : Byte)).length := by decide +kernel
theorem witness_PseudoLongBuildsItsFrame :
    State.reset.fault = false ∧ (List.replicate 253 (0 : Byte)).length ≤ 253 := by decide +kernel
theorem witness_StepRunsDecodedCommand :
    halted.fault = true ∧ (given 0).fault = false ∧ decode 0 = .error .reservedOpcode ∧
    (given 0x07000000).fault = false ∧ decode 0x07000000 = .ok .encode ∧ (given 0).prog[(given 0).pc]? = some 0 :=
  ⟨rfl, rfl, rfl, rfl, rfl, rfl⟩
theorem witness_IllegalWordFaults :
    ((given 0x0A000000).fault = false ∧ (given 0x0A000000).prog[(given 0x0A000000).pc]? = some 0x0A000000 ∧
      decode 0x0A000000 = .error .reservedOpcode) ∧
    (BitVec.extractLsb' 24 8 (0x05010100 : Word) = (Instr.payloadPush 0).opcode ∧
      (0x05010100 : Word) &&& (Instr.payloadPush 0).rowMask ≠ (Instr.payloadPush 0).rowMatch) :=
  ⟨⟨rfl, rfl, rfl⟩, by decide⟩
theorem witness_HaltedUntilReset : halted.fault = true ∧ react .reset halted = .next (assertReset halted) := ⟨rfl, rfl⟩
theorem witness_FaultIsPrecise :
    State.reset.fault = false ∧ stepWord 0 State.reset = .next (State.reset.latch .illegalCommand 0) ∧
    (State.reset.latch .illegalCommand 0).fault = true := ⟨rfl, rfl, rfl⟩
theorem witness_FaultsFollowTheCauseTable :
    State.reset.fault = false ∧ faultCause 0 State.reset = some .illegalCommand ∧
    faultCause 0x05010000 (holding FrameReg.reset (List.replicate 253 1)) = some .payloadOverflow ∧
    faultCause 0x05010000 (holding FrameReg.reset (List.replicate 252 1)) = none ∧
    faultCause 0x07000000 State.reset = some .noFrame ∧
    faultCause 0x08080500 (holding scenario2 []) = some .badField ∧ faultCause 0x08070500 (holding scenario2 []) = none ∧
    faultCause 0x09037F00 (holding scenario2 []) = some .badIndex ∧ faultCause 0x09027F00 (holding scenario2 []) = none := by decide +kernel
theorem witness_IndexAdvancesByOne :
    (given 0x01000000).fault = false ∧ (given 0x01000000).prog[(given 0x01000000).pc]? = some 0x01000000 := by decide
theorem witness_IdleWithoutWord :
    { given 0 with pc := 1 }.fault = false ∧ { given 0 with pc := 1 }.prog.length ≤ { given 0 with pc := 1 }.pc := by decide
theorem witness_FetchWordIsPresentedNext : (given 0).fault = false ∧ decode 0x01000000 = .ok .ackNew := ⟨rfl, rfl⟩
/-- The invariants in a state where no field has its reset value: scenario 2 emitted, a byte staged, then halted. -/
def busy : State :=
  { fr := scenario2, sb := [9], fault := true, cause := 0x04, fcmd := 0x08080500, tx := [[0xE5]],
    prog := [0x01000000, 0x08080500], pc := 1 }
theorem witness_invariants_halted : BlockInv busy ∧ RunInv busy :=
  ⟨⟨(by decide : scenario2.payload.length ≤ 253), by decide, by decide, by decide⟩, ⟨by decide, by decide⟩⟩
theorem witness_StepKeepsTheInvariants :
    (BlockInv (given 0x01000000) ∧ RunInv (given 0x01000000)) ∧
    step (given 0x01000000) = .next { given 0x01000000 with fr := ackFrame, pc := 1 } :=
  ⟨⟨⟨rfl, by decide, by decide, by decide⟩, ⟨by decide, by decide⟩⟩, rfl⟩
theorem witness_EveryEventKeepsTheBlockInvariant :
    BlockInv busy ∧ react .reset busy = .next (assertReset busy) := ⟨witness_invariants_halted.1, rfl⟩
theorem witness_ResetMeetsTheInvariants : BlockInv busy ∧ State.reset.fault = false := ⟨witness_invariants_halted.1, rfl⟩
theorem witness_EveryRunCompletesOrFaults : RunInv (given 0) ∧ (given 0).fault = false := ⟨⟨by decide, by decide⟩, rfl⟩
theorem witness_OnlyTheRunsEndsAreFinal :
    RunInv busy ∧ Faulted busy ∧ RunInv State.reset ∧ Completed State.reset :=
  ⟨witness_invariants_halted.2, by decide, ⟨by decide, by decide⟩, by decide⟩
theorem witness_ResetRestoresEveryRegister :
    halted.fault = true ∧ react .reset halted = .next (assertReset halted) ∧ (assertReset halted).fault = false :=
  ⟨rfl, rfl, rfl⟩
theorem witness_AckNewResult : (holding ackFrame [1]).fr = ⟨.ack, 0, 0, 0, 0, 0, 0, 0, 0, []⟩ := by decide
theorem witness_NackNewResult : (holding nackFrame [1]).fr = ⟨.nack, 0, 0, 0, 0, 0, 0, 0, 0, []⟩ := by decide
theorem witness_PayloadClearResult : (holding scenario2 []).sb = [] := rfl
theorem witness_PayloadPushResult :
    (holding scenario2 (List.replicate 252 1)).sb.length ≠ 253 ∧ (holding scenario2 (List.replicate 253 1)).sb.length = 253 ∧
    State.reset.fault = false ∧ State.reset.sb = [] ∧ (List.replicate 253 (1 : Byte)).length = 253 := by decide +kernel
theorem witness_LongNewResult : (holding scenario2 (List.replicate 253 1)).sb.length ≤ 253 := by decide +kernel
theorem witness_EncodeResult : State.reset.fr.kind = .none ∧ (holding scenario2 []).fr.kind ≠ .none := by decide
theorem witness_FieldWriteResult :
    (holding (shortFrame 1 2) []).fr.kind = .short ∧ (holding scenario2 []).fr.kind = .long ∧ 8 ≤ (0x08 : Byte).toNat := by
  decide
theorem witness_PayloadWriteResult :
    scenario2.kind = .long ∧ (0x02 : Byte).toNat < scenario2.payload.length ∧
    scenario2.payload.length ≤ (0x03 : Byte).toNat ∧ (shortFrame 1 2).kind ≠ .long := by decide
theorem witness_OnlyThreeCommandsTouchStaging :
    (Instr.encode ≠ .payloadClear ∧ (∀ b, Instr.encode ≠ .payloadPush b) ∧ ∀ c a, Instr.encode ≠ .longNew c a) ∧
    (holding scenario2 (List.replicate 252 1)).sb.length < 253 :=
  ⟨⟨nofun, nofun, nofun⟩, by decide +kernel⟩
theorem witness_PayloadLengthChangesOnlyAtConstruction : exec .ackNew State.reset = .next { State.reset with fr := ackFrame, pc := 1 } := rfl
theorem witness_OnlyEncodeAddsAFrame : exec .encode (holding ackFrame []) = .next { holding ackFrame [] with tx := [[0xE5]], pc := 1 } := rfl
theorem witness_EmittedFramesNeverChange :
    presentAll [0x01000000, 0x07000000] State.reset = .next { State.reset with fr := ackFrame, tx := [[0xE5]], pc := 2 } := rfl
theorem witness_CompletedCommandFrame :
    (holding scenario2 []).fault = false ∧
    exec (.fieldWrite 7 0) (holding scenario2 []) = .next { holding { scenario2 with stop := 0 } [] with pc := 1 } :=
  ⟨rfl, rfl⟩
theorem witness_ByteWritesShowAtTheirOffsetOnly :
    (holding scenario2 [5]).fault = false ∧ { holding scenario2 [5, 6] with pc := 1 }.fault = false ∧
    scenario2.payload.length ≤ 253 ∧ (holding scenario2 [5]).sb.length ≤ 253 ∧
    exec (.fieldWrite 0 1) (holding scenario2 [5]) = .next { holding { scenario2 with start := 1 } [5] with pc := 1 } ∧
    exec (.payloadWrite 0 7) (holding scenario2 [5]) =
      .next { holding { scenario2 with payload := [7, 2, 3] } [5] with pc := 1 } ∧
    exec (.payloadPush 6) (holding scenario2 [5]) = .next { holding scenario2 [5, 6] with pc := 1 } ∧
    exec .encode (holding ackFrame []) = .next { holding ackFrame [] with tx := [[0xE5]], pc := 1 } :=
  ⟨rfl, rfl, by decide, by decide, rfl, rfl, rfl, rfl⟩
theorem witness_ConstructionsKeepTheOtherOffsets :
    exec .payloadClear (holding scenario2 [5]) = .next { holding scenario2 [] with pc := 1 } ∧
    exec .nackNew (holding scenario2 [5]) = .next { holding nackFrame [5] with pc := 1 } ∧
    exec (.longNew 0 0) (holding scenario2 [5]) = .next { holding (longFrame 0 0 [5]) [] with pc := 1 } := ⟨rfl, rfl, rfl⟩
theorem witness_ChecksumInputs : [(1 : Byte), 2].Perm [2, 1] := by decide
theorem witness_DerivedFieldsAreNeverRecomputed :
    exec (.fieldWrite 6 0) (holding scenario2 []) = .next { holding { scenario2 with checksum := 0 } [] with pc := 1 } ∧
    ((Instr.fieldWrite 6 0) ≠ .ackNew ∧ (Instr.fieldWrite 6 0) ≠ .nackNew ∧
      (∀ c a, (Instr.fieldWrite 6 0) ≠ .shortNew c a) ∧ ∀ c a, (Instr.fieldWrite 6 0) ≠ .longNew c a) :=
  ⟨rfl, nofun, nofun, nofun, nofun⟩
theorem witness_ConstructionEstablishesTheFrameInvariants :
    (holding scenario2 (List.replicate 253 1)).sb.length ≤ 253 ∧ scenario2.kind = .long ∧ Constructed scenario2 :=
  ⟨by decide +kernel, rfl, rfl, rfl, rfl, rfl, by decide⟩
theorem witness_SerialisationByKind :
    FrameReg.reset.kind = .none ∧ ackFrame.kind = .ack ∧ nackFrame.kind = .nack ∧ (shortFrame 1 2).kind = .short ∧
    scenario2.kind = .long := by decide
theorem witness_AckAndNackOnTheWire :
    (holding ackFrame []).fr.kind = .ack ∧
    exec (.fieldWrite 0 1) (holding ackFrame []) = .next ((holding ackFrame []).latch .badField 0x08000100) := ⟨rfl, rfl⟩
theorem witness_MarkersAndFieldWritesOnTheWire :
    exec (.shortNew 1 2) State.reset = .next { State.reset with fr := shortFrame 1 2, pc := 1 } ∧
    exec (.longNew 1 2) State.reset = .next { State.reset with fr := longFrame 1 2 [], pc := 1 } ∧
    exec (.fieldWrite 7 0) (holding (shortFrame 1 2) []) =
      .next { holding { shortFrame 1 2 with stop := 0 } [] with pc := 1 } ∧
    exec (.fieldWrite 6 0) (holding scenario2 []) = .next { holding { scenario2 with checksum := 0 } [] with pc := 1 } :=
  ⟨rfl, rfl, rfl, rfl⟩
theorem witness_ReceiverCanTellKindAndLength :
    (holding scenario2 [9]).sb.length ≤ 253 ∧
    exec (.longNew 1 2) (holding scenario2 [9]) = .next { holding (longFrame 1 2 [9]) [] with pc := 1 } ∧
    exec .encode { holding (longFrame 1 2 [9]) [] with pc := 1 } =
      .next { holding (longFrame 1 2 [9]) [] with
        tx := [[0x68, 0x03, 0x03, 0x68, 0x01, 0x02, 0x09, 0x0C, 0x16]], pc := 2 } := ⟨by decide, rfl, rfl⟩
theorem witness_EncodingTwiceAppendsEqualFrames :
    (holding ackFrame []).fr.kind ≠ .none ∧
    exec .encode (holding ackFrame []) = .next { holding ackFrame [] with tx := [[0xE5]], pc := 1 } ∧
    exec .encode { holding ackFrame [] with tx := [[0xE5]], pc := 1 } =
      .next { holding ackFrame [] with tx := [[0xE5], [0xE5]], pc := 2 } := ⟨by decide, rfl, rfl⟩
theorem witness_RegisterViewMap :
    (holding scenario2 (List.replicate 253 1)).sb.length ≤ 253 ∧ scenario2.payload.length ≤ 253 ∧
    (0x0D ≤ (0x00D : BitVec 10).toNat ∧ (0x00D : BitVec 10).toNat ≤ 0x00F) ∧ 0x2FD ≤ (0x3FF : BitVec 10).toNat ∧
    (0x1FC : BitVec 10).toNat = 0x100 + 252 ∧ (0x2FC : BitVec 10).toNat = 0x200 + 252 := by decide +kernel
/-- Two states that differ in what the view does not show: TX and the issuer's part. -/
theorem witness_ViewDeterminesTheBlock :
    BlockInv busy ∧ BlockInv { busy with tx := [], pc := 0 } ∧
    ∀ a, viewRead busy a = viewRead { busy with tx := [], pc := 0 } a :=
  ⟨witness_invariants_halted.1, ⟨(by decide : scenario2.payload.length ≤ 253), by decide, by decide, by decide⟩,
    fun _ => rfl⟩

/-- A block that holds a frame and a staged byte, and the word of a LONG_NEW. -/
theorem witness_ViewReadsSeeWholeCommandsOnly :
    (holding scenario2 [9]).fault = false ∧ decode 0x06440100 = .ok (.longNew 0x44 0x01) := ⟨rfl, rfl⟩
/-- For the third clause two states that agree in the kind and the counts and differ in bytes; for the fourth both kinds
of frame with a write by another access between, at the last field of each. -/
theorem witness_NoAtomicReadModifyWrite :
    (decode 0x09027F00 = .ok (.payloadWrite 2 0x7F)) ∧
    ((holding scenario2 [5]).fault = false ∧ (holding (longFrame 9 9 [7, 8, 9]) [6]).fault = false ∧
      scenario2.kind = (longFrame 9 9 [7, 8, 9]).kind ∧
      scenario2.payload.length = (longFrame 9 9 [7, 8, 9]).payload.length ∧
      stepWord 0x08080500 (holding scenario2 [5]) = .next ((holding scenario2 [5]).latch .badField 0x08080500) ∧
      stepWord 0x08080500 (holding (longFrame 9 9 [7, 8, 9]) [6]) =
        .next ((holding (longFrame 9 9 [7, 8, 9]) [6]).latch .badField 0x08080500)) ∧
    ((0x00C : BitVec 10).toNat = 0x005 + (7 : Byte).toNat ∧
      (serveAll [.event (.command 0x08070500)] (holding scenario2 [])).1 =
        { holding { scenario2 with stop := 5 } [] with pc := 1 } ∧
      (serveAll [.event (.command 0x08070500)] (holding (shortFrame 1 2) [])).1 =
        { holding { shortFrame 1 2 with stop := 5 } [] with pc := 1 }) :=
  ⟨rfl, ⟨rfl, rfl, rfl, rfl, rfl, rfl⟩, rfl, rfl, rfl⟩
/-- A word at a halted block is not consumed and the view still reads (R41, R204): STATUS, and CAUSE NO_FRAME, after an
ENCODE of the empty register, then 0 after reset. -/
theorem test_accesses_around_a_fault :
    (serveAll [.read 0x000, .event (.command 0x07000000), .event (.command 0x01000000), .read 0x000, .read 0x001,
      .read 0x002, .event .reset, .read 0x000] State.reset).2 = [0, 1, 3, 0, 0] := by decide
/-- Scenario 2 of 95_test_vectors.md seen through the view: before LONG_NEW three staged bytes and no checksum, after it
SCNT 0 and checksum 0x4B. -/
theorem test_long_new_is_seen_whole :
    (serveAll [.read 0x003, .read 0x00B, .event (.command 0x06440100), .read 0x003, .read 0x00B]
      (holding FrameReg.reset [1, 2, 3])).2 = [3, 0, 0, 0x4B] := by decide

end Sys2Proof.Tests
end

section
/-! SUPPORT AND PROOF. The two ways a command can end, said once for `exec`, and O18. -/

namespace Sys2Proof.Machine

/-- A command completes with writes to FR, SB and TX only, or takes a fault as itself: the latch receives its own word
(R45, R201, R202). -/
theorem exec_completes_or_latches (i : Instr) (s : State) :
    (∃ fr sb tx, exec i s = complete { s with fr := fr, sb := sb, tx := tx }) ∨
      ∃ c, exec i s = .next (s.latch c (encode i)) := by
  cases i with
  | ackNew => exact .inl ⟨ackFrame, s.sb, s.tx, rfl⟩
  | nackNew => exact .inl ⟨nackFrame, s.sb, s.tx, rfl⟩
  | shortNew c a => exact .inl ⟨shortFrame c a, s.sb, s.tx, rfl⟩
  | payloadClear => exact .inl ⟨s.fr, [], s.tx, rfl⟩
  | payloadPush b =>
    by_cases hfull : s.sb.length = 253
    · exact .inr ⟨.payloadOverflow, execPayloadPush_full hfull⟩
    · exact .inl ⟨s.fr, s.sb ++ [b], s.tx, execPayloadPush_room hfull⟩
  | longNew c a => exact .inl ⟨longFrame c a s.sb, [], s.tx, rfl⟩
  | encode =>
    cases hser : ser s.fr with
    | none => exact .inr ⟨.noFrame, execEncode_none hser⟩
    | some bytes => exact .inl ⟨s.fr, s.sb, s.tx ++ [bytes], execEncode_some hser⟩
  | fieldWrite f v =>
    cases hfield : s.fr.kind.selectField f with
    | none => exact .inr ⟨.badField, execFieldWrite_invalid hfield⟩
    | some fld => exact .inl ⟨s.fr.put fld v, s.sb, s.tx, execFieldWrite_valid hfield⟩
  | payloadWrite k v =>
    cases hindex : s.fr.hasIndex k with
    | false => exact .inr ⟨.badIndex, execPayloadWrite_invalid hindex⟩
    | true => exact .inl ⟨s.fr.putPayload k v, s.sb, s.tx, execPayloadWrite_valid hindex⟩

/-- Settles O18, from the two ways a command can end. -/
theorem everyCommandEndsInANextState : Obligations.EveryCommandEndsInANextState := by
  intro i s
  obtain ⟨fr, sb, tx, hdone⟩ | ⟨c, hfault⟩ := exec_completes_or_latches i s
  · exact ⟨_, hdone, rfl, .inl ⟨rfl, rfl, rfl, rfl⟩⟩
  · exact ⟨_, hfault, State.latch_prog s c (encode i), .inr ⟨c.code, rfl⟩⟩

end Sys2Proof.Machine
end

section
/-! SUPPORT. What a command can do, said once: the writes of a completed command, the cause of a faulting one, and from
them what the block does with a presented word and what the machine's step does (R45, R200 to R204). -/

namespace Sys2Proof.Machine

/-- The command `i` faults on nothing in `s`, and the second state is `s` with the writes of `i`, the index not yet
advanced. Tied to the model by `exec_cases`. -/
inductive Completes (s : State) : Instr → State → Prop where
  | ackNew : Completes s .ackNew (s.setFrame ackFrame)
  | nackNew : Completes s .nackNew (s.setFrame nackFrame)
  | shortNew (c a : Byte) : Completes s (.shortNew c a) (s.setFrame (shortFrame c a))
  | payloadClear : Completes s .payloadClear (s.setStaging [])
  | payloadPush (b : Byte) (room : s.sb.length ≠ 253) : Completes s (.payloadPush b) (s.setStaging (s.sb ++ [b]))
  | longNew (c a : Byte) : Completes s (.longNew c a) ((s.setFrame (longFrame c a s.sb)).setStaging [])
  | encode (bytes : List Byte) (serialised : ser s.fr = some bytes) : Completes s .encode (s.emit bytes)
  | fieldWrite (f v : Byte) (fld : FieldName) (selected : s.fr.kind.selectField f = some fld) :
      Completes s (.fieldWrite f v) (s.setFrame (s.fr.put fld v))
  | payloadWrite (k v : Byte) (index : s.fr.hasIndex k = true) :
      Completes s (.payloadWrite k v) (s.setFrame (s.fr.putPayload k v))

/-- The command faults in `s`, with its cause (R200). Tied to the model by `exec_cases`. -/
inductive Faults (s : State) : Instr → Cause → Prop where
  | payloadPush (b : Byte) (full : s.sb.length = 253) : Faults s (.payloadPush b) .payloadOverflow
  | encode (empty : s.fr.kind = .none) : Faults s .encode .noFrame
  | fieldWrite (f v : Byte) (unselected : s.fr.kind.selectField f = none) : Faults s (.fieldWrite f v) .badField
  | payloadWrite (k v : Byte) (outside : s.fr.hasIndex k = false) : Faults s (.payloadWrite k v) .badIndex

/-- Every command completes with its writes, or latches its own word with its cause and does nothing else: what
`exec_completes_or_latches` says, with which writes and which cause. -/
theorem exec_cases (i : Instr) (s : State) :
    (∃ u, Completes s i u ∧ exec i s = complete u) ∨
      ∃ c, Faults s i c ∧ exec i s = .next (s.latch c (encode i)) := by
  cases i with
  | ackNew => exact .inl ⟨_, .ackNew, rfl⟩
  | nackNew => exact .inl ⟨_, .nackNew, rfl⟩
  | shortNew c a => exact .inl ⟨_, .shortNew c a, rfl⟩
  | payloadClear => exact .inl ⟨_, .payloadClear, rfl⟩
  | payloadPush b =>
    by_cases hfull : s.sb.length = 253
    · exact .inr ⟨_, .payloadPush b hfull, execPayloadPush_full hfull⟩
    · exact .inl ⟨_, .payloadPush b hfull, execPayloadPush_room hfull⟩
  | longNew c a => exact .inl ⟨_, .longNew c a, rfl⟩
  | encode =>
    cases hser : ser s.fr with
    | none => exact .inr ⟨_, .encode (ser_eq_none.mp hser), execEncode_none hser⟩
    | some bytes => exact .inl ⟨_, .encode bytes hser, execEncode_some hser⟩
  | fieldWrite f v =>
    cases hfld : s.fr.kind.selectField f with
    | none => exact .inr ⟨_, .fieldWrite f v hfld, execFieldWrite_invalid hfld⟩
    | some fld => exact .inl ⟨_, .fieldWrite f v fld hfld, execFieldWrite_valid hfld⟩
  | payloadWrite k v =>
    cases hk : s.fr.hasIndex k with
    | false => exact .inr ⟨_, .payloadWrite k v hk, execPayloadWrite_invalid hk⟩
    | true => exact .inl ⟨_, .payloadWrite k v hk, execPayloadWrite_valid hk⟩

/-- `exec_cases` read from the next state. -/
theorem exec_next_cases {i : Instr} {s t : State} (h : exec i s = .next t) :
    (∃ u, Completes s i u ∧ t = { u with pc := u.pc + 1 }) ∨ ∃ c, Faults s i c ∧ t = s.latch c (encode i) := by
  obtain ⟨u, hu, hexec⟩ | ⟨c, hc, hexec⟩ := exec_cases i s
  · exact .inl ⟨u, hu, (complete_eq_next.mp (hexec.symm.trans h)).symm⟩
  · exact .inr ⟨c, hc, (Host.Outcome.next.inj (hexec.symm.trans h)).symm⟩

/-- A command that leaves FAULT at 0 has completed. -/
theorem exec_next_completed {i : Instr} {s t : State} (h : exec i s = .next t) (ht : t.fault = false) :
    ∃ u, Completes s i u ∧ t = { u with pc := u.pc + 1 } := by
  obtain hdone | ⟨c, -, rfl⟩ := exec_next_cases h
  · exact hdone
  · simp at ht

/-- The writes of a completed command are to FR, SB and TX: the latch and the issuer's part are left. -/
theorem Completes.keeps_latch_and_issuer {s u : State} {i : Instr} (h : Completes s i u) :
    (u.fault = s.fault ∧ u.cause = s.cause ∧ u.fcmd = s.fcmd) ∧ u.prog = s.prog ∧ u.pc = s.pc := by
  cases h <;> exact ⟨⟨rfl, rfl, rfl⟩, rfl, rfl⟩

/-- A legal word is the encoding of its command (R70, R73 to R75): the opcode and the operands are the word's bytes, and
the accepted form makes the reserved bytes zero. -/
theorem encode_of_decode {w : Word} {i : Instr} (h : decode w = .ok i) : encode i = w := by
  unfold decode at h
  rw [← packWord_bytes w]
  split at h
  on_goal 10 => cases h
  all_goals
    rename_i hop
    obtain ⟨hzero, rfl⟩ := acceptForm_eq_ok.mp h
    simp_all [encode, Instr.opcode, Instr.operands, Instr.form, OperandForm.reservedZero]

/-- FIELD_WRITE selects no field exactly outside `valid(kind)`, in numbers (R22, R160). -/
theorem Kind.selectField_eq_none {k : Kind} {f : Byte} : k.selectField f = Option.none ↔
    ¬((k = .short ∧ (f = 0 ∨ 4 ≤ f.toNat ∧ f.toNat ≤ 7)) ∨ (k = .long ∧ f.toNat ≤ 7)) := by
  cases k <;> revert f <;> decide

/-- The cause of a faulting command is the one that the table of R200 gives its word. -/
theorem Faults.faultCause_eq {s : State} {i : Instr} {c : Cause} {w : Word} (h : Faults s i c)
    (hw : decode w = .ok i) : faultCause w s = some c := by
  unfold faultCause
  rw [hw]
  cases h with
  | payloadPush b full => exact if_pos full
  | encode empty => exact if_pos empty
  | fieldWrite f v unselected => exact if_neg (Kind.selectField_eq_none.mp unselected)
  | payloadWrite k v outside =>
    refine if_pos ?_
    rw [← Bool.not_eq_true, FrameReg.hasIndex_iff] at outside
    by_contra hin
    exact outside ⟨by tauto, by omega⟩

/-- What the block does with a word in FAULT = 0: its command completes, or the word is latched with the cause that the
table of R200 gives it. -/
theorem acceptWord_cases (w : Word) (s : State) :
    (∃ i u, decode w = .ok i ∧ Completes s i u ∧ acceptWord w s = complete u) ∨
      ∃ c, faultCause w s = some c ∧ acceptWord w s = .next (s.latch c w) := by
  cases hw : decode w with
  | error e => exact .inr ⟨.illegalCommand, by simp [faultCause, hw], by simp [acceptWord, hw, raiseFault]⟩
  | ok i =>
    have haccept : acceptWord w s = exec i s := by simp [acceptWord, hw]
    rw [haccept]
    obtain ⟨u, hu, hexec⟩ | ⟨c, hc, hexec⟩ := exec_cases i s
    · exact .inl ⟨i, u, rfl, hu, hexec⟩
    · rw [encode_of_decode hw] at hexec
      exact .inr ⟨c, hc.faultCause_eq hw, hexec⟩

/-- A word always has an answer, which keeps the program; it advances the index and leaves FAULT, or it raises FAULT with
the word in FCMD and leaves the index (R45, R201). -/
theorem acceptWord_index (w : Word) (s : State) :
    ∃ t, acceptWord w s = .next t ∧ t.prog = s.prog ∧
      (t.fault = s.fault ∧ t.pc = s.pc + 1 ∨ t.fault = true ∧ t.fcmd = w ∧ t.pc = s.pc) := by
  obtain ⟨i, u, -, hu, h⟩ | ⟨c, -, h⟩ := acceptWord_cases w s
  · obtain ⟨⟨hfault, -, -⟩, hprog, hpc⟩ := hu.keeps_latch_and_issuer
    exact ⟨_, h, hprog, .inl ⟨hfault, congrArg (· + 1) hpc⟩⟩
  · exact ⟨_, h, rfl, .inr ⟨rfl, rfl, rfl⟩⟩

/-- A halted block has no step for a word (R204). -/
theorem stepWord_halted {s : State} (h : s.fault = true) (w : Word) : stepWord w s = .fault .halted := by
  simp [stepWord, h]

/-- With FAULT = 0 the block takes the word (R202). -/
theorem stepWord_running {s : State} (h : s.fault = false) (w : Word) : stepWord w s = acceptWord w s := by
  simp [stepWord, h]

/-- A halted machine has no step (R204). -/
theorem step_halted {s : State} (h : s.fault = true) : step s = .fault .halted := by
  simp [step, stepIssuer, h]

/-- With FAULT = 0 the machine takes the presented word (R45, R202). -/
theorem step_presented {s : State} {w : Word} (h : s.fault = false) (hw : s.presented = some w) :
    step s = acceptWord w s := by
  simp [step, stepIssuer, h, hw]

/-- With FAULT = 0 and no word presented the machine is idle (R215, R232). -/
theorem step_idle {s : State} (h : s.fault = false) (hw : s.presented = none) : step s = .next s := by
  simp [step, stepIssuer, h, hw]

/-- Where the machine has a step, FAULT is 0, and it idles or takes the presented word. -/
theorem step_next_cases {s t : State} (h : step s = .next t) :
    s.fault = false ∧ (s.presented = none ∧ t = s ∨ ∃ w, s.presented = some w ∧ acceptWord w s = .next t) := by
  cases hf : s.fault with
  | true => rw [step_halted hf] at h; cases h
  | false =>
    cases hw : s.presented with
    | none => rw [step_idle hf hw] at h; cases h; exact ⟨rfl, .inl ⟨rfl, rfl⟩⟩
    | some w => exact ⟨rfl, .inr ⟨w, rfl, step_presented hf hw ▸ h⟩⟩

end Sys2Proof.Machine
end

section
/-! PROOF. The invariants of the block and of the run: what reset and loading establish, and that every word, every step
and every event keeps them (R22, R23, R26, R31, R32, R35, R45, R46). O19, O20, O21, O25. -/

namespace Sys2Proof.Machine

/-- Writing a field that the kind has leaves the fields that it lacks (R22, R23). -/
theorem frameShape_put {fr : FrameReg} {f : Byte} {fld : FieldName} (h : FrameShape fr)
    (hf : fr.kind.selectField f = some fld) (v : Byte) : FrameShape (fr.put fld v) := by
  have hhas := (Kind.selectField_eq_some.mp hf).2
  cases hk : fr.kind with
  | none => simp [hk, Kind.hasField] at hhas
  | ack => simp [hk, Kind.hasField] at hhas
  | nack => simp [hk, Kind.hasField] at hhas
  | short => cases fld <;> simp_all [FrameShape, Kind.hasField, FrameReg.put]
  | long => simp_all [FrameShape]

/-- Writing a payload byte leaves the payload's length (R163). -/
theorem frameShape_putPayload {fr : FrameReg} {k : Byte} (h : FrameShape fr) (hk : fr.hasIndex k = true) (v : Byte) :
    FrameShape (fr.putPayload k v) := by
  have hlong := (FrameReg.hasIndex_iff.mp hk).1
  simp_all [FrameShape]

/-- A completed command leaves a frame of its kind's shape in FR. -/
theorem Completes.frameShape {s u : State} {i : Instr} (h : Completes s i u) (hs : BlockInv s) : FrameShape u.fr := by
  cases h with
  | ackNew => exact (rfl : ackFrame = ackFrame)
  | nackNew => exact (rfl : nackFrame = nackFrame)
  | shortNew c a => exact ⟨rfl, rfl, rfl, rfl⟩
  | payloadClear => exact hs.frame
  | payloadPush b room => exact hs.frame
  | longNew c a => exact hs.staging
  | encode bytes serialised => exact hs.frame
  | fieldWrite f v fld selected => exact frameShape_put hs.frame selected v
  | payloadWrite k v index => exact frameShape_putPayload hs.frame index v

/-- A completed command leaves SB within its capacity: a push has had room (R26, R131). -/
theorem Completes.staging_le {s u : State} {i : Instr} (h : Completes s i u) (hs : s.sb.length ≤ 253) :
    u.sb.length ≤ 253 := by
  cases h with
  | payloadPush b room => simp; omega
  | payloadClear => simp
  | longNew c a => simp
  | _ => exact hs

/-- A completed command leaves TX, or is ENCODE and appends one frame, which is not empty (R35). -/
theorem Completes.tx_cases {s u : State} {i : Instr} (h : Completes s i u) :
    u.tx = s.tx ∨ i = .encode ∧ ∃ bytes, bytes ≠ [] ∧ u.tx = s.tx ++ [bytes] := by
  cases h with
  | encode bytes serialised => exact .inr ⟨rfl, bytes, ser_ne_nil serialised, rfl⟩
  | _ => exact .inl rfl

/-- The block's invariant after a completed command, the index advanced; the latch is clear and stays so. -/
theorem Completes.keeps_blockInv {s u : State} {i : Instr} (h : Completes s i u) (hs : BlockInv s)
    (hf : s.fault = false) : BlockInv { u with pc := u.pc + 1 } where
  frame := h.frameShape hs
  staging := h.staging_le hs.staging
  latch := by
    obtain ⟨⟨hfault, hcause, hfcmd⟩, -⟩ := h.keeps_latch_and_issuer
    have hclear := hs.latch
    simp_all [LatchTrue]
  frames := by
    intro bytes hmem
    obtain htx | ⟨-, new, hnew, htx⟩ := h.tx_cases
    · exact hs.frames bytes (htx ▸ hmem)
    · rcases List.mem_append.mp ((htx ▸ hmem : bytes ∈ s.tx ++ [new])) with hold | hlast
      · exact hs.frames bytes hold
      · exact List.mem_singleton.mp hlast ▸ hnew

/-- The block's invariant after a fault: the latch names a word with the cause that the word has in the state as it
stands, since the fault has written nothing that the cause depends on (R200, R201). -/
theorem blockInv_latch {s : State} {c : Cause} {w : Word} (hs : BlockInv s) (hc : faultCause w s = some c) :
    BlockInv (s.latch c w) where
  frame := hs.frame
  staging := hs.staging
  latch := congrArg (Option.map Cause.code) (hc : faultCause w (s.latch c w) = some c)
  frames := hs.frames

/-- The block's invariant is kept by every word taken with FAULT = 0. -/
theorem acceptWord_keeps_blockInv {s t : State} {w : Word} (hs : BlockInv s) (hf : s.fault = false)
    (h : acceptWord w s = .next t) : BlockInv t := by
  obtain ⟨i, u, -, hu, hdone⟩ | ⟨c, hc, hfault⟩ := acceptWord_cases w s
  · obtain rfl := complete_eq_next.mp (hdone.symm.trans h)
    exact hu.keeps_blockInv hs hf
  · obtain rfl := Host.Outcome.next.inj (hfault.symm.trans h)
    exact blockInv_latch hs hc

/-- The run's invariant is kept by the presented word taken with FAULT = 0 (R45, R46). -/
theorem acceptWord_keeps_runInv {s t : State} {w : Word} (hf : s.fault = false) (hw : s.presented = some w)
    (h : acceptWord w s = .next t) : RunInv t := by
  have hlt : s.pc < s.prog.length := (List.getElem?_eq_some_iff.mp hw).1
  obtain ⟨t', ht', hprog, ⟨hfault, hpc⟩ | ⟨-, hfcmd, hpc⟩⟩ := acceptWord_index w s <;>
    obtain rfl := Host.Outcome.next.inj (ht'.symm.trans h)
  · exact ⟨by rw [hprog]; omega, fun hhalt => by simp_all⟩
  · exact ⟨by rw [hprog]; omega, fun _ => by rw [State.presented, hprog, hpc, hfcmd]; exact hw⟩

/-- Settles O19: an idle step changes nothing, and every other step takes the presented word with FAULT = 0. -/
theorem stepKeepsTheInvariants : Obligations.StepKeepsTheInvariants := by
  intro s t hblock hrun hstep
  obtain ⟨hf, ⟨-, rfl⟩ | ⟨w, hw, haccept⟩⟩ := step_next_cases hstep
  · exact ⟨hblock, hrun⟩
  · exact ⟨acceptWord_keeps_blockInv hblock hf haccept, acceptWord_keeps_runInv hf hw haccept⟩

/-- The block's invariant in the state after reset (R48, R230), whatever the issuer's program. -/
theorem blockInv_assertReset (s : State) : BlockInv (assertReset s) :=
  ⟨rfl, Nat.zero_le _, ⟨rfl, rfl⟩, nofun⟩

/-- A run that starts at index 0 with FAULT = 0 meets its invariant (R45). -/
theorem runInv_of_start {s : State} (hpc : s.pc = 0) (hf : s.fault = false) : RunInv s :=
  ⟨hpc ▸ Nat.zero_le _, fun hhalt => by simp [hf] at hhalt⟩

/-- Settles O20: a word is taken only with FAULT = 0, and a reset leaves the reset values. -/
theorem everyEventKeepsTheBlockInvariant : Obligations.EveryEventKeepsTheBlockInvariant := by
  intro e s t hs h
  cases e with
  | command w =>
    replace h : stepWord w s = .next t := h
    cases hf : s.fault with
    | true => rw [stepWord_halted hf] at h; cases h
    | false => exact acceptWord_keeps_blockInv hs hf (stepWord_running hf w ▸ h)
  | reset => exact Host.Outcome.next.inj h ▸ blockInv_assertReset s

/-- Settles O21. -/
theorem resetMeetsTheInvariants : Obligations.ResetMeetsTheInvariants := by
  refine ⟨⟨blockInv_assertReset State.reset, runInv_of_start rfl rfl⟩, fun s prog => ⟨blockInv_assertReset s, ?_, ?_, ?_⟩⟩
  · exact runInv_of_start rfl rfl
  · rintro ⟨hframe, hstaging, hlatch, hframes⟩
    exact ⟨hframe, hstaging, hlatch, hframes⟩
  · exact fun hf => runInv_of_start rfl hf

/-- Settles O25: each value is that of `State.reset` or `FrameReg.reset` (R48). -/
theorem resetValues : Obligations.ResetValues :=
  ⟨rfl, rfl, rfl, rfl, rfl, rfl, rfl, rfl, rfl, rfl, rfl, rfl, rfl, rfl, rfl⟩

end Sys2Proof.Machine
end

section
/-! PROOF. The issuer's run: its index, its end, its order, and the word placed for the next step (R45, R46, R60).
O15, O17, O22, O23, O24. -/

namespace Sys2Proof.Machine

/-- With FAULT = 0 and a word presented the machine has a step, which keeps the program; the word completes and the index
advances, or the word faults and the index stays (R45, R201). -/
theorem step_of_running {s : State} {w : Word} (hf : s.fault = false) (hw : s.presented = some w) :
    ∃ t, step s = .next t ∧ t.prog = s.prog ∧
      (t.fault = false ∧ t.pc = s.pc + 1 ∨ t.fault = true ∧ t.fcmd = w ∧ t.pc = s.pc) := by
  obtain ⟨t, hnext, hprog, hend⟩ := acceptWord_index w s
  exact ⟨t, (step_presented hf hw).trans hnext, hprog, hf ▸ hend⟩

/-- Settles O15. -/
theorem indexAdvancesByOne : Obligations.IndexAdvancesByOne := by
  refine ⟨fun s w hf hw => ?_, fun s prog => ⟨rfl, rfl, rfl⟩⟩
  obtain ⟨t, hstep, hprog, hdone | ⟨hfault, -, hpc⟩⟩ := step_of_running hf hw
  · exact ⟨t, hstep, hprog, .inl hdone⟩
  · exact ⟨t, hstep, hprog, .inr ⟨hfault, hpc⟩⟩

/-- A run with a word left presents one. -/
theorem presented_of_lt {s : State} (h : s.pc < s.prog.length) : ∃ w, s.presented = some w :=
  ⟨_, List.getElem?_eq_getElem h⟩

/-- With `n` words left and FAULT = 0, the run ends within `n` steps. -/
theorem run_ends (n : Nat) (s : State) (hleft : s.pc + n = s.prog.length) (hf : s.fault = false) :
    ∃ (k : Nat) (t : State), k ≤ n ∧ runSteps k s = .next t ∧ t.prog = s.prog ∧
      (Completed t ∨ Faulted t ∧ step t = .fault .halted) := by
  induction n generalizing s with
  | zero => exact ⟨0, s, Nat.le_refl 0, rfl, rfl, .inl ⟨hleft, hf⟩⟩
  | succ n ih =>
    obtain ⟨w, hw⟩ := presented_of_lt (s := s) (by omega)
    obtain ⟨t, hstep, hprog, ⟨hfault, hpc⟩ | ⟨hfault, hfcmd, hpc⟩⟩ := step_of_running hf hw
    · obtain ⟨k, e, hk, hrun, heprog, hend⟩ := ih t (by rw [hprog, hpc]; omega) hfault
      exact ⟨k + 1, e, Nat.succ_le_succ hk, by simp [runSteps, hstep, hrun], heprog.trans hprog, hend⟩
    · refine ⟨1, t, by omega, by simp [runSteps, hstep], hprog, .inr ⟨⟨hfault, ?_⟩, step_halted hfault⟩⟩
      rw [hprog, hpc, hfcmd]
      exact hw

/-- Settles O22, by induction on the words left. -/
theorem everyRunCompletesOrFaults : Obligations.EveryRunCompletesOrFaults := by
  intro s hrun hf
  exact run_ends (s.prog.length - s.pc) s (Nat.add_sub_cancel' hrun.index) hf

/-- Settles O23: a faulted run is halted, a completed one is idle, and in any other state of a run the step is a next
state that differs in FAULT or in the index. -/
theorem onlyTheRunsEndsAreFinal : Obligations.OnlyTheRunsEndsAreFinal := by
  intro s hrun
  cases hf : s.fault with
  | true =>
    rw [step_halted hf]
    have hfaulted : Faulted s := ⟨hf, hrun.faulting hf⟩
    exact ⟨iff_of_true ⟨_, rfl⟩ hfaulted, iff_of_false nofun (by simp [Completed, hf]), nofun⟩
  | false =>
    have hnot : ¬ Faulted s := by simp [Faulted, hf]
    cases hw : s.presented with
    | none =>
      rw [step_idle hf hw]
      have hlen : s.prog.length ≤ s.pc := List.getElem?_eq_none_iff.mp hw
      exact ⟨iff_of_false nofun hnot, iff_of_true rfl ⟨Nat.le_antisymm hrun.index hlen, hf⟩, nofun⟩
    | some w =>
      have hlt : s.pc < s.prog.length := (List.getElem?_eq_some_iff.mp hw).1
      obtain ⟨t, hstep, -, hmoved⟩ := step_of_running hf hw
      rw [hstep]
      refine ⟨iff_of_false nofun hnot, iff_of_false ?_ fun hdone => by omega, nofun⟩
      rintro ⟨⟩
      rcases hmoved with ⟨-, hpc⟩ | ⟨hfault, -⟩
      · omega
      · simp [hf] at hfault

/-- As many steps as words, for a halted machine, which takes none of them, and for one whose words are these. -/
theorem runSteps_eq_presentAll (ws : List Word) (s : State) (h : s.fault = true ∨ s.prog.drop s.pc = ws) :
    runSteps ws.length s = presentAll ws s := by
  induction ws generalizing s with
  | nil => rfl
  | cons w ws ih =>
    cases hf : s.fault with
    | true => simp [runSteps, presentAll, step_halted hf, stepWord_halted hf]
    | false =>
      have hdrop : s.prog.drop s.pc = w :: ws := h.resolve_left (by simp [hf])
      have hw : s.presented = some w := by
        rw [State.presented, ← List.head?_drop, hdrop]; rfl
      obtain ⟨t, hstep, hprog, hmoved⟩ := step_of_running hf hw
      have hword : stepWord w s = .next t := by
        rw [stepWord_running hf, ← step_presented hf hw]; exact hstep
      have hrest : t.fault = true ∨ t.prog.drop t.pc = ws := by
        rcases hmoved with ⟨-, hpc⟩ | ⟨hfault, -⟩
        · right; rw [hprog, hpc, ← List.tail_drop, hdrop]; rfl
        · exact .inl hfault
      simp [runSteps, presentAll, hstep, hword, ih t hrest]

/-- Settles O24. -/
theorem runPresentsTheProgramInOrder : Obligations.RunPresentsTheProgramInOrder := by
  intro s
  rw [← List.length_drop]
  exact runSteps_eq_presentAll _ s (.inr rfl)

/-- A whole 32-bit word is placed as it is (R71). -/
theorem withFetchWord_word (s : State) (w : Word) : s.withFetchWord 32 w.toNat = s.presentWord w := by
  rw [State.withFetchWord, Nat.mod_eq_of_lt w.isLt, BitVec.ofNat_toNat, BitVec.setWidth_eq]

/-- Settles O17. -/
theorem fetchWordIsPresentedNext : Obligations.FetchWordIsPresentedNext := by
  intro s w
  have hw : (s.withFetchWord 32 w.toNat).presented = some w := by
    rw [withFetchWord_word]; exact presentWord_presented s w
  refine ⟨hw, rfl, fun i hf hi => ?_⟩
  rw [step_presented (s := s.withFetchWord 32 w.toNat) hf hw, acceptWord, hi]

end Sys2Proof.Machine
end

section
/-! PROOF. What the commands do to SB, to PLEN, to TX and to the frame in FR (R24, R25, R26, R35). O36, O37, O38, O46. -/

namespace Sys2Proof.Machine

/-- A command other than the three of R26 neither reads nor writes SB: in a state with any other staging buffer it does
the same. -/
theorem exec_ignores_staging {i : Instr} (hclear : i ≠ .payloadClear) (hpush : ∀ b, i ≠ .payloadPush b)
    (hlong : ∀ c a, i ≠ .longNew c a) (s : State) (x : List Byte) :
    ∃ t, exec i s = .next t ∧ t.sb = s.sb ∧ exec i { s with sb := x } = .next { t with sb := x } := by
  cases i with
  | ackNew => exact ⟨_, rfl, rfl, rfl⟩
  | nackNew => exact ⟨_, rfl, rfl, rfl⟩
  | shortNew c a => exact ⟨_, rfl, rfl, rfl⟩
  | payloadClear => exact absurd rfl hclear
  | payloadPush b => exact absurd rfl (hpush b)
  | longNew c a => exact absurd rfl (hlong c a)
  | encode =>
    cases hser : ser s.fr with
    | none => exact ⟨_, execEncode_none hser, rfl, execEncode_none (s := { s with sb := x }) hser⟩
    | some bytes => exact ⟨_, execEncode_some hser, rfl, execEncode_some (s := { s with sb := x }) hser⟩
  | fieldWrite f v =>
    cases hfld : s.fr.kind.selectField f with
    | none => exact ⟨_, execFieldWrite_invalid hfld, rfl, execFieldWrite_invalid (s := { s with sb := x }) hfld⟩
    | some fld => exact ⟨_, execFieldWrite_valid hfld, rfl, execFieldWrite_valid (s := { s with sb := x }) hfld⟩
  | payloadWrite k v =>
    cases hk : s.fr.hasIndex k with
    | false => exact ⟨_, execPayloadWrite_invalid hk, rfl, execPayloadWrite_invalid (s := { s with sb := x }) hk⟩
    | true => exact ⟨_, execPayloadWrite_valid hk, rfl, execPayloadWrite_valid (s := { s with sb := x }) hk⟩

/-- Settles O36. -/
theorem onlyThreeCommandsTouchStaging : Obligations.OnlyThreeCommandsTouchStaging := by
  refine ⟨fun i s x hclear hpush hlong => exec_ignores_staging hclear hpush hlong s x, fun s => ⟨_, rfl, rfl⟩, ?_,
    fun c a s => ⟨_, rfl, rfl, rfl⟩⟩
  exact fun b s hroom => ⟨_, execPayloadPush_room hroom.ne, rfl⟩

/-- Settles O37: a fault leaves FR, and the one completed write to a payload that is kept is in place. -/
theorem payloadLengthChangesOnlyAtConstruction : Obligations.PayloadLengthChangesOnlyAtConstruction := by
  intro i s t h
  obtain ⟨u, hu, rfl⟩ | ⟨c, hc, rfl⟩ := exec_next_cases h
  · cases hu with
    | fieldWrite f v fld selected => exact congrArg List.length (s.fr.put_payload fld v)
    | payloadWrite k v index => exact List.length_set
    | _ => rfl
  · cases hc <;> rfl

/-- Settles O38: the wire is the frames of TX one after another, so that it follows TX. -/
theorem onlyEncodeAddsAFrame : Obligations.OnlyEncodeAddsAFrame := by
  intro i s t h
  obtain ⟨u, hu, rfl⟩ | ⟨c, -, rfl⟩ := exec_next_cases h
  · obtain htx | ⟨hi, bytes, hne, htx⟩ := hu.tx_cases
    · exact .inl ⟨htx, congrArg List.flatten htx⟩
    · refine .inr ⟨hi, bytes, hne, htx, ?_⟩
      simp [State.wire, htx]
  · exact .inl ⟨rfl, rfl⟩

/-- The wrapping fold adds modulo 256 to its accumulator (R100, R101). -/
theorem foldl_wadd8_toNat (l : List Byte) (acc : Byte) :
    (l.foldl wadd8 acc).toNat = (acc.toNat + (l.map BitVec.toNat).sum) % 256 := by
  induction l generalizing acc with
  | nil => simp [Nat.mod_eq_of_lt acc.isLt]
  | cons b l ih =>
    rw [List.foldl_cons, ih]
    simp [wadd8, Nat.add_assoc]

/-- `sum8` is the sum of the bytes modulo 256 (R100). -/
theorem sum8_toNat (l : List Byte) : (sum8 l).toNat = (l.map BitVec.toNat).sum % 256 := by
  simp [sum8, foldl_wadd8_toNat]

/-- The length byte of a payload within the bound is not wrapped (R133). -/
theorem lengthByte_toNat {n : Nat} (h : n ≤ 253) : (lengthByte n).toNat = n + 2 := by
  rw [lengthByte, BitVec.toNat_ofNat, Nat.mod_eq_of_lt (by omega)]

/-- A Short frame as SHORT_NEW builds it (R24, R120). -/
theorem constructed_shortFrame (c a : Byte) : Constructed (shortFrame c a) :=
  ⟨rfl, rfl, by simp [shortFrame, sum8_toNat]⟩

/-- A Long frame as LONG_NEW builds it from a payload within the bound (R24, R132). -/
theorem constructed_longFrame (c a : Byte) {p : List Byte} (h : p.length ≤ 253) : Constructed (longFrame c a p) :=
  ⟨rfl, rfl, rfl, rfl, lengthByte_toNat h, by simp [longFrame, sum8_toNat, Nat.add_assoc]⟩

/-- A Short or Long frame with another stop byte has lost the invariants of its kind (R24). -/
theorem not_constructed_of_stop {fr : FrameReg} (hk : fr.kind = .short ∨ fr.kind = .long) (hstop : fr.stop ≠ 0x16) :
    ¬ Constructed fr := by
  intro h
  rcases hk with hk | hk <;> simp only [Constructed, hk] at h
  · obtain ⟨-, hbyte, -⟩ := h
    exact hstop hbyte
  · obtain ⟨-, -, hbyte, -⟩ := h
    exact hstop hbyte

/-- Settles O46; the invariants are broken by writing 0x00 to `stop`, a field of both kinds. -/
theorem constructionEstablishesTheFrameInvariants : Obligations.ConstructionEstablishesTheFrameInvariants := by
  constructor
  · rintro i s hsb (rfl | rfl | ⟨c, a, rfl⟩ | ⟨c, a, rfl⟩)
    · exact ⟨_, rfl, (rfl : ser ackFrame = some [0xE5])⟩
    · exact ⟨_, rfl, (rfl : ser nackFrame = some [0xA2])⟩
    · exact ⟨_, rfl, constructed_shortFrame c a⟩
    · exact ⟨_, rfl, constructed_longFrame c a hsb⟩
  · intro s hk _
    have hstop : s.fr.kind.selectField 7 = some .stop := by
      rcases hk with hk | hk <;> rw [hk] <;> rfl
    exact ⟨7, 0, _, execFieldWrite_valid hstop, rfl, not_constructed_of_stop hk (by simp [FrameReg.put])⟩

end Sys2Proof.Machine
end

section
/-! SUPPORT. When two states read the same at an offset of the view, and what the view tells of the state (R40). -/

namespace Sys2Proof.Machine

/-- The eight field-select codes are 0 to 7 (R22). -/
theorem FieldName.code_lt (fld : FieldName) : fld.code.toNat < 8 := by
  cases fld <;> decide

/-- The kind codes differ (R21). -/
theorem Kind.code_injective {k l : Kind} (h : k.code = l.code) : k = l := by
  revert h; cases k <;> cases l <;> decide

/-- A frame register is its kind, its eight fields and its payload (R21, R22). -/
theorem FrameReg.eq_of_get {fr other : FrameReg} (hk : fr.kind = other.kind) (hget : ∀ fld, fr.get fld = other.get fld)
    (hp : fr.payload = other.payload) : fr = other := by
  cases fr
  cases other
  obtain rfl := hk
  obtain rfl := hp
  congr
  · exact hget .start
  · exact hget .length
  · exact hget .lengthRepeat
  · exact hget .startRepeat
  · exact hget .control
  · exact hget .address
  · exact hget .checksum
  · exact hget .stop

/-- An offset from 0x100 on is that of a payload byte, of a staged byte, or reserved (R40). -/
theorem memory_offset_cases {a : Nat} (h : 0x100 ≤ a) :
    (∃ k ≤ 252, a = 0x100 + k) ∨ (∃ k ≤ 252, a = 0x200 + k) ∨ (0x1FD ≤ a ∧ a < 0x200 ∨ 0x2FD ≤ a) := by
  rcases Nat.lt_or_ge a 0x1FD with h1 | h1
  · exact .inl ⟨a - 0x100, by omega, by omega⟩
  rcases Nat.lt_or_ge a 0x200 with h2 | h2
  · exact .inr (.inr (.inl ⟨h1, h2⟩))
  rcases Nat.lt_or_ge a 0x2FD with h3 | h3
  · exact .inr (.inl ⟨a - 0x200, by omega, by omega⟩)
  · exact .inr (.inr (.inr h3))

/-- Two states with the same latch that agree in what stands at the offset `a`, as R40 lays out the offsets. -/
structure AgreeAt (s t : State) (a : Nat) : Prop where
  latch : s.fault = t.fault ∧ s.cause = t.cause ∧ s.fcmd = t.fcmd
  kind : a = 0x002 → s.fr.kind = t.fr.kind
  scnt : a = 0x003 → s.sb.length = t.sb.length
  plen : a = 0x004 → s.fr.payload.length = t.fr.payload.length
  field : ∀ fld : FieldName, a = 0x005 + fld.code.toNat → s.fr.get fld = t.fr.get fld
  payload : ∀ k ≤ 252, a = 0x100 + k → s.fr.payload[k]? = t.fr.payload[k]?
  stage : ∀ k ≤ 252, a = 0x200 + k → s.sb[k]? = t.sb[k]?

/-- States that agree in what stands at an offset read the same there. -/
theorem AgreeAt.viewByte_eq {s t : State} {a : Nat} (h : AgreeAt s t a) : viewByte s a = viewByte t a := by
  obtain ⟨⟨hfault, hcause, hfcmd⟩, hkind, hscnt, hplen, hfield, hpayload, hstage⟩ := h
  rcases Nat.lt_or_ge a 0x100 with hreg | hmem
  · rw [viewByte_register s hreg, viewByte_register t hreg]
    obtain hstatus | ⟨fld, rfl⟩ | hword | hreserved := register_offset_cases hreg
    · exact registerByte_congr (.inl hstatus) hfault hcause hfcmd hkind hscnt hplen
    · rw [registerByte_field, registerByte_field, hfield fld rfl]
    · exact registerByte_congr (.inr (by omega)) hfault hcause hfcmd hkind hscnt hplen
    · rw [registerByte_reserved s hreserved, registerByte_reserved t hreserved]
  · obtain ⟨k, hk, rfl⟩ | ⟨k, hk, rfl⟩ | hreserved := memory_offset_cases hmem
    · rw [viewByte_payload s hk, viewByte_payload t hk, hpayload k hk rfl]
    · rw [viewByte_stage s hk, viewByte_stage t hk, hstage k hk rfl]
    · rw [viewByte_reserved s hreserved, viewByte_reserved t hreserved]

/-- A field reads at 0x005 plus its code (R40). -/
theorem viewByte_field (s : State) (fld : FieldName) : viewByte s (0x005 + fld.code.toNat) = s.fr.get fld := by
  have := fld.code_lt
  rw [viewByte_register s (by omega), registerByte_field]

/-- With SB empty the count and every staging offset read 0x00 (R40). -/
theorem viewByte_of_empty_staging {s : State} (hsb : s.sb = []) {a : Nat} (h : a = 0x003 ∨ 0x200 ≤ a) :
    viewByte s a = 0 := by
  obtain rfl | h := h
  · simp [viewByte_register, registerByte, hsb]
  · obtain ⟨k, hk, rfl⟩ | ⟨k, hk, rfl⟩ | hreserved := memory_offset_cases (a := a) (by omega)
    · omega
    · simp [viewByte_stage s hk, hsb]
    · exact viewByte_reserved s hreserved

/-- The payload of a frame of its kind's shape is within the bound (R22). -/
theorem payload_le_of_frameShape {fr : FrameReg} (h : FrameShape fr) : fr.payload.length ≤ 253 := by
  cases hk : fr.kind <;> simp only [FrameShape, hk] at h
  case none => simp [h, FrameReg.reset]
  case ack => simp [h, ackFrame, bareFrame, FrameReg.reset]
  case nack => simp [h, nackFrame, bareFrame, FrameReg.reset]
  case short =>
    obtain ⟨-, -, -, hpayload⟩ := h
    simp [hpayload]
  case long => exact h

/-- Two sequences within the bound are equal where their counts and their bytes, 0x00 past the end, read the same. -/
theorem eq_of_same_reads {l m : List Byte} (hl : l.length ≤ 253) (hm : m.length ≤ 253)
    (hcount : BitVec.ofNat 8 l.length = BitVec.ofNat 8 m.length)
    (hbytes : ∀ k ≤ 252, (l[k]?).getD 0 = (m[k]?).getD 0) : l = m := by
  have hlen : l.length = m.length := by
    have := congrArg BitVec.toNat hcount
    simp only [BitVec.toNat_ofNat] at this
    omega
  refine List.ext_getElem hlen fun k hk hk' => ?_
  simpa [hk, hk'] using hbytes k (by omega)

end Sys2Proof.Machine
end

section
/-! PROOF. The register view: its table, what it determines, and where the commands show in it (R40, R54, R58, R214).
O41, O42, O54, O55. -/

namespace Sys2Proof.Machine

/-- Settles O54, region by region. -/
theorem registerViewMap : Obligations.RegisterViewMap := by
  intro s
  refine ⟨rfl, rfl, ?_, fun h => ?_, fun h => ?_, ⟨rfl, rfl, rfl, rfl, rfl, rfl, rfl, rfl⟩, ⟨rfl, rfl, rfl, rfl⟩,
    fun a => ⟨fun h => ?_, fun k hk ha => ?_, fun k hk ha => ?_⟩⟩
  · show s.fr.kind.code = _
    cases s.fr.kind <;> rfl
  · show (BitVec.ofNat 8 s.sb.length).toNat = _
    rw [BitVec.toNat_ofNat, Nat.mod_eq_of_lt (by omega)]
  · show (BitVec.ofNat 8 s.fr.payload.length).toNat = _
    rw [BitVec.toNat_ofNat, Nat.mod_eq_of_lt (by omega)]
  · rcases Nat.lt_or_ge a.toNat 0x100 with hreg | hmem
    · rw [viewRead, viewByte_register s hreg, registerByte_reserved s (by omega)]
    · exact viewByte_reserved s (by omega)
  · rw [viewRead, ha, viewByte_payload s hk]
  · rw [viewRead, ha, viewByte_stage s hk]

/-- Settles O55: every register that the statement names is built up again from its offsets. -/
theorem viewDeterminesTheBlock : Obligations.ViewDeterminesTheBlock := by
  intro s t hs ht hview
  have hbyte : ∀ a < 0x400, viewByte s a = viewByte t a := fun a ha => by
    simpa [viewRead, Nat.mod_eq_of_lt ha] using hview (BitVec.ofNat 10 a)
  have hstatus : statusByte s = statusByte t := hbyte 0x000 (by omega)
  have hkind : s.fr.kind.code = t.fr.kind.code := hbyte 0x002 (by omega)
  have hpayload : s.fr.payload = t.fr.payload := by
    refine eq_of_same_reads (payload_le_of_frameShape hs.frame) (payload_le_of_frameShape ht.frame)
      (hbyte 0x004 (by omega)) fun k hk => ?_
    rw [← viewByte_payload s hk, ← viewByte_payload t hk, hbyte _ (by omega)]
  have hsb : s.sb = t.sb := by
    refine eq_of_same_reads hs.staging ht.staging (hbyte 0x003 (by omega)) fun k hk => ?_
    rw [← viewByte_stage s hk, ← viewByte_stage t hk, hbyte _ (by omega)]
  refine ⟨FrameReg.eq_of_get (Kind.code_injective hkind) (fun fld => ?_) hpayload, hsb, ?_, hbyte 0x001 (by omega), ?_⟩
  · have := fld.code_lt
    rw [← viewByte_field s fld, ← viewByte_field t fld, hbyte _ (by omega)]
  · cases hf : s.fault <;> cases hg : t.fault <;> simp_all [statusByte]
  · have hop : opByte s.fcmd = opByte t.fcmd := hbyte 0x010 (by omega)
    have h1 : byte1 s.fcmd = byte1 t.fcmd := hbyte 0x011 (by omega)
    have h2 : byte2 s.fcmd = byte2 t.fcmd := hbyte 0x012 (by omega)
    have h3 : byte3 s.fcmd = byte3 t.fcmd := hbyte 0x013 (by omega)
    rw [← packWord_bytes s.fcmd, hop, h1, h2, h3, packWord_bytes]

/-- After a field write the view differs at the field's own offset only (R54, R160). -/
theorem viewByte_put (s : State) (fld : FieldName) (v : Byte) (n a : Nat) :
    viewByte { s.setFrame (s.fr.put fld v) with pc := n } a =
      if a = 0x005 + fld.code.toNat then v else viewByte s a := by
  split
  case isTrue ha => rw [ha, viewByte_field]; exact s.fr.get_put_same fld v
  case isFalse ha =>
    refine AgreeAt.viewByte_eq ⟨⟨rfl, rfl, rfl⟩, fun _ => s.fr.put_kind fld v, fun _ => rfl,
      fun _ => congrArg List.length (s.fr.put_payload fld v), fun other hother => ?_, fun k _ _ => ?_, fun _ _ _ => rfl⟩
    · exact s.fr.get_put_of_ne (by rintro rfl; exact ha hother) v
    · exact congrArg (·[k]?) (s.fr.put_payload fld v)

/-- After a write of a payload byte within the bound the view differs at that byte's offset only (R54, R161). -/
theorem viewByte_putPayload {s : State} {k : Byte} (hk : k.toNat < s.fr.payload.length)
    (hbound : s.fr.payload.length ≤ 253) (v : Byte) (n a : Nat) :
    viewByte { s.setFrame (s.fr.putPayload k v) with pc := n } a =
      if a = 0x100 + k.toNat then v else viewByte s a := by
  split
  case isTrue ha =>
    rw [ha, viewByte_payload _ (by omega)]
    simp [hk]
  case isFalse ha =>
    refine AgreeAt.viewByte_eq ⟨⟨rfl, rfl, rfl⟩, fun _ => rfl, fun _ => rfl, fun _ => List.length_set,
      fun fld _ => s.fr.putPayload_get k v fld, fun j _ hj => ?_, fun _ _ _ => rfl⟩
    exact List.getElem?_set_ne (by omega)

/-- After a push where there is room the view differs at the count and at the new byte's offset only (R54, R131). -/
theorem viewByte_push {s : State} (hroom : s.sb.length < 253) (b : Byte) (n a : Nat) :
    viewByte { s.setStaging (s.sb ++ [b]) with pc := n } a =
      if a = 0x003 then BitVec.ofNat 8 (s.sb.length + 1)
      else if a = 0x200 + s.sb.length then b else viewByte s a := by
  split
  case isTrue ha => subst ha; simp [viewByte_register, registerByte]
  case isFalse hcount =>
    split
    case isTrue ha =>
      rw [ha, viewByte_stage _ (by omega)]
      simp
    case isFalse ha =>
      refine AgreeAt.viewByte_eq ⟨⟨rfl, rfl, rfl⟩, fun _ => rfl, fun h => absurd h hcount, fun _ => rfl, fun _ _ => rfl,
        fun _ _ _ => rfl, fun j _ hj => ?_⟩
      show (s.sb ++ [b])[j]? = s.sb[j]?
      rcases Nat.lt_or_ge j s.sb.length with hold | hpast
      · exact List.getElem?_append_left hold
      · rw [List.getElem?_eq_none hpast, List.getElem?_eq_none (by simp; omega)]

/-- Settles O41: each of the four commands has completed, with one write. -/
theorem byteWritesShowAtTheirOffsetOnly : Obligations.ByteWritesShowAtTheirOffsetOnly := by
  intro s t a _ ht
  refine ⟨fun f v h => ?_, fun k v hbound h => ?_, fun b hbound h => ?_, fun h => ?_⟩ <;>
    obtain ⟨u, hu, rfl⟩ := exec_next_completed h ht <;> cases hu
  case fieldWrite fld selected =>
    obtain ⟨rfl, -⟩ := Kind.selectField_eq_some.mp selected
    exact viewByte_put s fld v _ a.toNat
  case payloadWrite index =>
    exact viewByte_putPayload (FrameReg.hasIndex_iff.mp index).2 hbound v _ a.toNat
  case payloadPush room => exact viewByte_push (by omega) b _ a.toNat
  case encode bytes serialised => rfl

/-- States with the same latch read the same at the latch's offsets and at FCMD's. -/
theorem viewByte_eq_of_latch {s t : State} (hlatch : s.fault = t.fault ∧ s.cause = t.cause ∧ s.fcmd = t.fcmd) {a : Nat}
    (h : a ≤ 0x001 ∨ 0x00D ≤ a ∧ a < 0x100) : viewByte s a = viewByte t a :=
  AgreeAt.viewByte_eq {
    latch := hlatch
    kind := by omega
    scnt := by omega
    plen := by omega
    field := fun fld _ => by have := fld.code_lt; omega
    payload := by omega
    stage := by omega }

/-- A write of FR leaves the staging offsets. -/
theorem viewByte_setFrame (s : State) (fr : FrameReg) (n : Nat) {a : Nat} (h : a = 0x003 ∨ 0x1FD ≤ a) :
    viewByte { s.setFrame fr with pc := n } a = viewByte s a :=
  AgreeAt.viewByte_eq {
    latch := ⟨rfl, rfl, rfl⟩
    kind := by omega
    scnt := fun _ => rfl
    plen := by omega
    field := fun fld _ => by have := fld.code_lt; omega
    payload := by omega
    stage := fun _ _ _ => rfl }

/-- A write of SB leaves every offset below the staging bytes but the count. -/
theorem viewByte_setStaging (s : State) (sb : List Byte) (n : Nat) {a : Nat} (hcount : a ≠ 0x003) (h : a < 0x200) :
    viewByte { s.setStaging sb with pc := n } a = viewByte s a :=
  AgreeAt.viewByte_eq {
    latch := ⟨rfl, rfl, rfl⟩
    kind := fun _ => rfl
    scnt := fun ha => absurd ha hcount
    plen := fun _ => rfl
    field := fun _ _ => rfl
    payload := fun _ _ _ => rfl
    stage := by omega }

/-- Settles O42: none of the five commands faults, and each writes FR, SB or both. -/
theorem constructionsKeepTheOtherOffsets : Obligations.ConstructionsKeepTheOtherOffsets := by
  intro i s t a h hi
  have hdone : ∃ u, Completes s i u ∧ t = { u with pc := u.pc + 1 } := by
    obtain hdone | ⟨c, hfault, -⟩ := exec_next_cases h
    · exact hdone
    · rcases hi with rfl | rfl | ⟨_, _, rfl⟩ | ⟨_, _, rfl⟩ | rfl <;> cases hfault
  obtain ⟨u, hu, rfl⟩ := hdone
  refine ⟨viewByte_eq_of_latch hu.keeps_latch_and_issuer.1, ?_, ?_, ?_⟩
  · rintro (rfl | rfl | ⟨c, x, rfl⟩) ha <;> cases hu <;> exact viewByte_setFrame s _ _ ha
  · rintro rfl hcount ha
    cases hu
    exact viewByte_setStaging s [] _ hcount ha
  · rintro (rfl | ⟨c, x, rfl⟩) ha <;> cases hu <;> exact viewByte_of_empty_staging rfl ha

end Sys2Proof.Machine
end

section
/-! SUPPORT. What a presented word can do to TX and to the latch, the word of each command read back, and what sequences
of accesses of one sort do (R35, R55, R60, R200). -/

namespace Sys2Proof.Machine

/-- A legal word is executed as its command (R202). -/
theorem acceptWord_of_decode {w : Word} {i : Instr} (h : decode w = .ok i) (s : State) : acceptWord w s = exec i s := by
  simp [acceptWord, h]

/-- The word of a command decodes to it: the opcode selects its row, and its reserved bytes are zero (R73, R75). -/
theorem decode_encode (i : Instr) : decode (encode i) = .ok i := by
  have hop : opByte (encode i) = i.opcode := opByte_packWord ..
  unfold decode
  rw [hop]
  cases i <;> exact acceptForm_eq_ok.mpr ⟨by simp [encode, Instr.operands, Instr.form, OperandForm.reservedZero],
    by simp [encode, Instr.operands]⟩

/-- A word that has a step leaves TX, or appends the whole serialised frame of the FR it finds (R35, R150). -/
theorem stepWord_tx_cases {w : Word} {s t : State} (h : stepWord w s = .next t) :
    t.tx = s.tx ∨ ∃ bytes, ser s.fr = some bytes ∧ t.tx = s.tx ++ [bytes] := by
  cases hf : s.fault with
  | true => rw [stepWord_halted hf] at h; cases h
  | false =>
    rw [stepWord_running hf] at h
    obtain ⟨i, u, -, hu, hdone⟩ | ⟨c, -, hfault⟩ := acceptWord_cases w s
    · obtain rfl := complete_eq_next.mp (hdone.symm.trans h)
      cases hu with
      | encode bytes serialised => exact .inr ⟨bytes, serialised, rfl⟩
      | _ => exact .inl rfl
    · obtain rfl := Host.Outcome.next.inj (hfault.symm.trans h)
      exact .inl rfl

/-- The table of R200 gives the word of a command that completes no cause. -/
theorem Completes.faultCause_eq_none {s u : State} {i : Instr} {w : Word} (h : Completes s i u)
    (hw : decode w = .ok i) : faultCause w s = none := by
  unfold faultCause
  rw [hw]
  cases h with
  | payloadPush b room => exact if_neg room
  | encode bytes serialised =>
    refine if_neg fun hnone => ?_
    rw [ser_eq_none.mpr hnone] at serialised
    cases serialised
  | fieldWrite f v fld selected =>
    refine if_pos (by_contra fun hnone => ?_)
    rw [Kind.selectField_eq_none.mpr hnone] at selected
    cases selected
  | payloadWrite k v index =>
    obtain ⟨hlong, hlt⟩ := FrameReg.hasIndex_iff.mp index
    exact if_neg (not_or.mpr ⟨not_not.mpr hlong, by omega⟩)
  | _ => rfl

/-- Whether a word faults with FAULT = 0, and on what, is what the table of R200 says of it. -/
theorem stepWord_faults_by_table {w : Word} {s t : State} (hf : s.fault = false) (h : stepWord w s = .next t) :
    t.fault = (faultCause w s).isSome ∧ ∀ c, faultCause w s = some c → t.cause = c.code := by
  rw [stepWord_running hf] at h
  obtain ⟨i, u, hw, hu, hdone⟩ | ⟨c, hc, hfault⟩ := acceptWord_cases w s
  · obtain rfl := complete_eq_next.mp (hdone.symm.trans h)
    obtain ⟨⟨hkept, -, -⟩, -⟩ := hu.keeps_latch_and_issuer
    rw [hu.faultCause_eq_none hw]
    exact ⟨hkept.trans hf, nofun⟩
  · obtain rfl := Host.Outcome.next.inj (hfault.symm.trans h)
    rw [hc]
    exact ⟨rfl, fun _ hd => congrArg Cause.code (Option.some.inj hd)⟩

/-- The table of R200 reads the word, the kind and the two counts, and no byte that the block holds. -/
theorem faultCause_congr {s s' : State} (hkind : s.fr.kind = s'.fr.kind)
    (hplen : s.fr.payload.length = s'.fr.payload.length) (hscnt : s.sb.length = s'.sb.length) (w : Word) :
    faultCause w s = faultCause w s' := by
  simp only [faultCause, hkind, hplen, hscnt]

/-- ENCODE of a frame appends its bytes to TX and leaves FR (R56, R151). -/
theorem exec_encode_keeps_frame {s t : State} {bytes : List Byte} (hser : ser s.fr = some bytes)
    (h : exec .encode s = .next t) : t.fr = s.fr ∧ t.tx = s.tx ++ [bytes] := by
  obtain rfl := complete_eq_next.mp ((execEncode_some hser).symm.trans h)
  exact ⟨rfl, rfl⟩

/-- View reads alone: the state stays, and each returns its byte of the view (R41). -/
theorem serveAll_reads (offsets : List (BitVec 10)) (s : State) :
    serveAll (offsets.map .read) s = (s, offsets.map (viewRead s)) := by
  induction offsets with
  | nil => rfl
  | cons a offsets ih => simp [serveAll, ih]

/-- Events alone return no byte (R42). -/
theorem serveAll_events_bytes (es : List Event) (s : State) : (serveAll (es.map .event) s).2 = [] := by
  induction es generalizing s with
  | nil => rfl
  | cons e es ih => simp [serveAll, ih]

/-- The state after a sequence of accesses is that of its events alone (R41, R60). -/
theorem serveAll_state (xs : List Access) (s : State) :
    (serveAll xs s).1 = afterEvents (xs.filterMap Access.event?) s := by
  induction xs generalizing s with
  | nil => rfl
  | cons x xs ih => cases x <;> exact ih _

/-- A FIELD_WRITE of a code in `valid(kind)`, presented with FAULT = 0, writes: the field's offset of the view then reads
the byte written (R40, R160). -/
theorem viewByte_after_fieldWrite {t : State} {f : Byte} (hf : t.fault = false)
    (hvalid : t.fr.kind = .short ∧ (f = 0 ∨ 4 ≤ f.toNat ∧ f.toNat ≤ 7) ∨ t.fr.kind = .long ∧ f.toNat ≤ 7) (v : Byte) :
    viewByte (afterEvent t (.command (encode (.fieldWrite f v)))) (0x005 + f.toNat) = v := by
  obtain ⟨fld, hfld⟩ : ∃ fld, t.fr.kind.selectField f = some fld :=
    Option.ne_none_iff_exists'.mp fun hnone => Kind.selectField_eq_none.mp hnone hvalid
  have hstep : stepWord (encode (.fieldWrite f v)) t = complete (t.setFrame (t.fr.put fld v)) := by
    rw [stepWord_running hf, acceptWord_of_decode (decode_encode _)]
    exact execFieldWrite_valid hfld
  obtain ⟨rfl, -⟩ := Kind.selectField_eq_some.mp hfld
  rw [afterEvent_of_stepWord hstep, viewByte_put, if_pos rfl]

end Sys2Proof.Machine
end

section
/-! PROOF. The command port, TX and the view as memory: byte order, atomicity and what stays (R52, R55, R56, R57, R62).
O6, O39, O53, O56, O57. -/

namespace Sys2Proof.Machine

/-- Settles O39, by induction on the words: each appends one frame or none. -/
theorem emittedFramesNeverChange : Obligations.EmittedFramesNeverChange := by
  intro ws
  induction ws with
  | nil =>
    rintro s t ⟨⟩
    exact ⟨[], by simp⟩
  | cons w ws ih =>
    intro s t h
    cases hstep : stepWord w s with
    | next m =>
      obtain ⟨later, htx, hlen⟩ := ih m t (by simpa [presentAll, hstep] using h)
      obtain hkept | ⟨bytes, -, hnew⟩ := stepWord_tx_cases hstep
      · exact ⟨later, by rw [htx, hkept], Nat.le_succ_of_le hlen⟩
      · exact ⟨bytes :: later, by simp [htx, hnew], Nat.succ_le_succ hlen⟩
    | fault r => simp [presentAll, hstep] at h
    | refused r => simp [presentAll, hstep] at h

/-- Settles O56: reads change nothing, and a word has one next state, with nothing between. -/
theorem viewReadsSeeWholeCommandsOnly : Obligations.ViewReadsSeeWholeCommandsOnly := by
  refine fun s => ⟨fun xs => serveAll_state xs s, fun before after a => ?_, fun w hf => ?_⟩
  · simp [serveAll_append, serveAll, serveAll_state before]
  · obtain ⟨t, haccept, -⟩ := acceptWord_index w s
    have hstep : stepWord w s = .next t := (stepWord_running hf w).trans haccept
    refine ⟨t, hstep, stepWord_tx_cases hstep, fun c a hw => ?_, fun before after => ?_⟩
    · have hlong : execLongNew c a s = .next t := (acceptWord_of_decode hw s).symm.trans haccept
      obtain rfl := complete_eq_next.mp hlong
      exact ⟨rfl, rfl, rfl⟩
    · simp [serveAll_append, serveAll, serveAll_reads, afterEvent_of_stepWord hstep]

/-- Settles O57: the table of R200 decides every fault, and a FIELD_WRITE lands wherever its code is valid, whatever came
since the read. -/
theorem noAtomicReadModifyWrite : Obligations.NoAtomicReadModifyWrite := by
  refine ⟨fun w i _ => ?_, serveAll_events_bytes, ?_, ?_⟩
  · cases i <;> simp
  · intro w s s' t t' hs hs' hkind hplen hscnt ht ht'
    have hcongr := faultCause_congr hkind hplen hscnt w
    obtain ⟨hfault, hcause⟩ := stepWord_faults_by_table hs ht
    obtain ⟨hfault', hcause'⟩ := stepWord_faults_by_table hs' ht'
    refine ⟨by rw [hfault, hfault', hcongr], fun hraised => ?_⟩
    obtain ⟨c, hc⟩ := Option.isSome_iff_exists.mp (hfault ▸ hraised)
    exact (hcause c hc).trans (hcause' c (hcongr ▸ hc)).symm
  · intro between f v a s t ha hf hvalid
    have hread : viewRead (afterEvent t (.command (encode (.fieldWrite f v)))) a = v := by
      rw [viewRead, ha]
      exact viewByte_after_fieldWrite hf hvalid.symm v
    simp [serveAll_append, serveAll, hread, t]

/-- Settles O6: the four fields are the bytes of the word, whose concatenation is the word (R70). -/
theorem commandBytesAreBigEndian : Obligations.CommandBytesAreBigEndian := by
  refine ⟨fun w rest => ?_, fun s => rfl⟩
  show decodeBytes (opByte w :: byte1 w :: byte2 w :: byte3 w :: rest) = _
  rw [decodeBytes, packWord_bytes]
  cases decode w <;> rfl

/-- Settles O53: the first ENCODE leaves FR, so that the second serialises the same frame (R150, R151). -/
theorem encodingTwiceAppendsEqualFrames : Obligations.EncodingTwiceAppendsEqualFrames := by
  intro s t u hkind ht hu
  obtain ⟨bytes, hser⟩ := Option.ne_none_iff_exists'.mp (mt ser_eq_none.mp hkind)
  obtain ⟨hfr, htx⟩ := exec_encode_keeps_frame hser ht
  obtain ⟨hfr', htx'⟩ := exec_encode_keeps_frame (hfr ▸ hser) hu
  exact ⟨bytes, ser_ne_nil hser, htx, by simp [htx', htx], hfr'.trans hfr⟩

end Sys2Proof.Machine
end

section
/-! PROOF. A word against the rows of the opcode map: the match and the mask of a row, byte by byte, and from them which
words are legal and as what (R70 to R75, R79). O1, O2, O3, O4, O5. -/

namespace Sys2Proof.Machine

/-- Settles O1. -/
theorem decodeOfEncode : Obligations.DecodeOfEncode :=
  decode_encode

/-- Settles O2. -/
theorem encodeOfDecode : Obligations.EncodeOfDecode :=
  fun _ _ => encode_of_decode

/-- Two words are equal exactly when their four bytes are (R70). -/
theorem word_eq_iff_bytes {v w : Word} :
    v = w ↔ opByte v = opByte w ∧ byte1 v = byte1 w ∧ byte2 v = byte2 w ∧ byte3 v = byte3 w := by
  refine ⟨by rintro rfl; exact ⟨rfl, rfl, rfl, rfl⟩, ?_⟩
  rintro ⟨hop, h1, h2, h3⟩
  rw [← packWord_bytes v, hop, h1, h2, h3, packWord_bytes]

/-- A word agrees with a row's match under its mask exactly when it has the row's opcode and zero in the bytes that the
row's form reserves (R72, R73). -/
theorem agrees_with_row_iff {w : Word} {i : Instr} : w &&& i.rowMask = i.rowMatch ↔
    opByte w = i.opcode ∧ i.form.reservedZero (byte1 w) (byte2 w) (byte3 w) = true := by
  have hones (b : Byte) : b &&& 255#8 = b := BitVec.and_allOnes
  rw [word_eq_iff_bytes]
  simp only [opByte, byte1, byte2, byte3, BitVec.extractLsb'_and]
  cases i <;> simp only [Instr.rowMask, Instr.rowMatch] <;>
    simp [Instr.opcode, Instr.form, OperandForm.reservedZero, hones, and_assoc]

/-- The words of a command are those of its row that carry its operand bytes (R73, R75). -/
theorem decode_eq_ok_iff {w : Word} {i : Instr} :
    decode w = .ok i ↔ w &&& i.rowMask = i.rowMatch ∧ i.operands.1 = byte1 w ∧ i.operands.2 = byte2 w := by
  rw [agrees_with_row_iff]
  constructor
  · intro h
    obtain rfl := encode_of_decode h
    cases i <;> simp [encode, Instr.operands, Instr.form, OperandForm.reservedZero]
  · rintro ⟨⟨hop, hzero⟩, h1, h2⟩
    have hword : encode i = w := by
      rw [word_eq_iff_bytes]
      cases i <;> simp_all [encode, Instr.operands, Instr.form, OperandForm.reservedZero]
    rw [← hword, decode_encode]

/-- A row of form CMD-0 is its match alone: the mask covers both operand bytes. -/
theorem decode_eq_ok_iff_cmd0 {w : Word} {i : Instr} (hform : i.form = .cmd0) :
    decode w = .ok i ↔ w &&& i.rowMask = i.rowMatch := by
  rw [decode_eq_ok_iff, and_iff_left_iff_imp, agrees_with_row_iff]
  cases i <;> simp_all [Instr.form, Instr.operands, OperandForm.reservedZero]

/-- A row of form CMD-1 is its match and the first operand byte: the mask covers the second. -/
theorem decode_eq_ok_iff_cmd1 {w : Word} {i : Instr} (hform : i.form = .cmd1) :
    decode w = .ok i ↔ w &&& i.rowMask = i.rowMatch ∧ i.operands.1 = byte1 w := by
  rw [decode_eq_ok_iff, and_congr_right_iff, agrees_with_row_iff]
  cases i <;> simp_all [Instr.form, Instr.operands, OperandForm.reservedZero]

/-- Settles O3: each row by its operand form. -/
theorem decodeFollowsOpcodeMap : Obligations.DecodeFollowsOpcodeMap :=
  fun _ => ⟨decode_eq_ok_iff_cmd0 rfl, decode_eq_ok_iff_cmd0 rfl, fun _ _ => decode_eq_ok_iff,
    decode_eq_ok_iff_cmd0 rfl, fun _ => decode_eq_ok_iff_cmd1 rfl, fun _ _ => decode_eq_ok_iff,
    decode_eq_ok_iff_cmd0 rfl, fun _ _ => decode_eq_ok_iff, fun _ _ => decode_eq_ok_iff⟩

/-- A word is legal exactly when it agrees with a row, whatever its operand bytes (R73, R75). -/
theorem exists_decode_eq_ok_iff {w : Word} :
    (∃ i, decode w = .ok i) ↔ ∃ i : Instr, w &&& i.rowMask = i.rowMatch := by
  constructor
  · rintro ⟨i, hi⟩
    exact ⟨i, (decode_eq_ok_iff.mp hi).1⟩
  · rintro ⟨i, hrow⟩
    obtain ⟨hop, hzero⟩ := agrees_with_row_iff.mp hrow
    unfold decode
    rw [hop]
    cases i <;> exact ⟨_, acceptForm_eq_ok.mpr ⟨hzero, rfl⟩⟩

/-- A word is illegal exactly when it misses every row (R74). -/
theorem exists_decode_eq_error_iff {w : Word} :
    (∃ e, decode w = .error e) ↔ ∀ i : Instr, w &&& i.rowMask ≠ i.rowMatch := by
  rw [← not_exists, ← exists_decode_eq_ok_iff]
  cases decode w <;> simp

/-- The assigned opcodes are 0x01 to 0x09 (R73). -/
theorem opcode_toNat_mem (i : Instr) : 1 ≤ i.opcode.toNat ∧ i.opcode.toNat ≤ 9 := by
  cases i <;> simp [Instr.opcode]

/-- An illegal word taken with FAULT = 0 raises ILLEGAL_COMMAND (R203). -/
theorem stepWord_illegal {s : State} {w : Word} {e : DecodeError} (hf : s.fault = false) (he : decode w = .error e) :
    stepWord w s = .next (s.latch .illegalCommand w) := by
  simp [stepWord_running hf, acceptWord, he, raiseFault]

/-- Settles O4: a word that agrees with a row has that row's opcode, which is one of the assigned. -/
theorem illegalWordsAreTheUnassignedOnes : Obligations.IllegalWordsAreTheUnassignedOnes := by
  intro w
  refine ⟨?_, fun s hf ⟨e, he⟩ => stepWord_illegal hf he, ⟨_, rfl⟩⟩
  rw [exists_decode_eq_error_iff, ← opByte]
  constructor
  · intro hmiss
    by_cases hassigned : 1 ≤ (opByte w).toNat ∧ (opByte w).toNat ≤ 9
    · exact .inr ⟨hassigned.1, hassigned.2, fun i _ => hmiss i⟩
    · left; bv_omega
  · intro hunassigned i hrow
    obtain ⟨hop, -⟩ := agrees_with_row_iff.mp hrow
    have hrange := opcode_toNat_mem i
    rw [← hop] at hrange
    rcases hunassigned with (hzero | hreserved) | ⟨-, -, hmiss⟩
    · simp [hzero] at hrange
    · omega
    · exact hmiss i hop.symm hrow

/-- Settles O5: each line and each word is evaluated. -/
theorem encodingExamples : Obligations.EncodingExamples :=
  ⟨⟨rfl, rfl⟩, ⟨rfl, rfl⟩, ⟨rfl, rfl⟩, ⟨rfl, rfl⟩, ⟨rfl, rfl⟩, ⟨rfl, rfl⟩, ⟨rfl, rfl⟩, ⟨rfl, rfl⟩, ⟨rfl, rfl⟩⟩

end Sys2Proof.Machine
end

section
/-! PROOF. The assembler's operands and its pseudo-instructions (R77, R78). O7, O8. -/

namespace Sys2Proof.Machine

/-- A number of 256 or more is no byte (R77). -/
theorem checkByte_of_ge {n : Nat} (h : 256 ≤ n) : checkByte n = .error .operandRange :=
  if_neg (Nat.not_lt.mpr h)

/-- A byte written as a number is read back (R77). -/
@[simp] theorem checkByte_toNat (b : Byte) : checkByte b.toNat = .ok b := by
  simp [checkByte, b.isLt]

@[simp] theorem asmByte_toNat (b : Byte) : asmByte (.number b.toNat) = .ok b :=
  checkByte_toNat b

/-- Bytes written as numbers are read back in order. -/
@[simp] theorem mapM_checkByte_toNat (p : List Byte) : (p.map BitVec.toNat).mapM checkByte = .ok p := by
  induction p with
  | nil => rfl
  | cons b p ih =>
    rw [List.map_cons, List.mapM_cons, checkByte_toNat, ih]
    rfl

/-- A payload list within the bound is read back (R78). -/
theorem asmPayload_toNat {p : List Byte} (h : p.length ≤ 253) : asmPayload (.list (p.map BitVec.toNat)) = .ok p := by
  have hlen : (p.map BitVec.toNat).length ≤ Config.maxPayload := by rwa [List.length_map]
  rw [asmPayload, if_pos hlen, mapM_checkByte_toNat]

/-- A longer payload list is refused as such (R78). -/
theorem asmPayload_of_length_gt {ns : List Nat} (h : 253 < ns.length) : asmPayload (.list ns) = .error .payloadTooLong :=
  if_neg (Nat.not_le.mpr h)

/-- A step of the assembler that answers a value got one from the step before it. -/
theorem except_bind_eq_ok {ε α β : Type} {x : Except ε α} {f : α → Except ε β} {b : β} :
    (x >>= f) = .ok b ↔ ∃ a, x = .ok a ∧ f a = .ok b := by
  cases x <;> simp [bind, Except.bind]

/-- A list that is read as bytes holds no number of 256 or more. -/
theorem lt_of_mapM_checkByte {ns : List Nat} {p : List Byte} (h : ns.mapM checkByte = .ok p) : ∀ n ∈ ns, n < 256 := by
  induction ns generalizing p with
  | nil => nofun
  | cons m ns ih =>
    simp only [List.mapM_cons, except_bind_eq_ok] at h
    obtain ⟨b, hb, q, hq, -⟩ := h
    have hm : m < 256 := by
      by_contra hge
      rw [checkByte_of_ge (Nat.not_lt.mp hge)] at hb
      cases hb
    exact List.forall_mem_cons.mpr ⟨hm, ih hq⟩

/-- Some place of a line takes the operand: it reads as a byte, as a field-select code or as a payload list (R77, R78).
Tied to the model by `readable_of_expandOp`. -/
def AsmOperand.Readable (x : AsmOperand) : Prop :=
  (∃ b, asmByte x = .ok b) ∨ (∃ f, asmFieldCode x = .ok f) ∨ ∃ p, asmPayload x = .ok p

/-- A number of 256 or more is taken nowhere. -/
theorem not_readable_number {n : Nat} (h : 256 ≤ n) : ¬ (AsmOperand.number n).Readable := by
  simp [AsmOperand.Readable, asmByte, asmFieldCode, asmPayload, checkByte_of_ge h]

/-- A list with a number of 256 or more is taken nowhere. -/
theorem not_readable_list {ns : List Nat} {n : Nat} (h : 256 ≤ n) (hn : n ∈ ns) :
    ¬ (AsmOperand.list ns).Readable := by
  rintro (⟨b, hb⟩ | ⟨f, hf⟩ | ⟨p, hp⟩)
  · cases hb
  · cases hf
  · by_cases hlen : ns.length ≤ 253
    · have hbytes : ns.mapM checkByte = .ok p := (if_pos hlen).symm.trans hp
      exact absurd (lt_of_mapM_checkByte hbytes n hn) (Nat.not_lt.mpr h)
    · rw [asmPayload_of_length_gt (Nat.not_le.mp hlen)] at hp
      cases hp

/-- A line that assembles has read each of its operands: every shape of a line reads them one after another. -/
theorem readable_of_expandOp {op : AsmOp} {operands : List AsmOperand} {is : List Instr}
    (h : expandOp op operands = .ok is) : ∀ x ∈ operands, x.Readable := by
  unfold expandOp at h
  split at h <;> grind [AsmOperand.Readable, except_bind_eq_ok]

/-- A line with an operand that no place takes does not assemble. -/
theorem expandOp_error_of_not_readable {x : AsmOperand} (hx : ¬ x.Readable) (op : AsmOp) {operands : List AsmOperand}
    (hmem : x ∈ operands) : ∃ e, expandOp op operands = .error e := by
  cases h : expandOp op operands with
  | error e => exact ⟨e, rfl⟩
  | ok is => exact absurd (readable_of_expandOp h x hmem) hx

/-- Settles O7: a count other than the mnemonic's meets none of the shapes of a line. -/
theorem assemblerRefusesBadOperands : Obligations.AssemblerRefusesBadOperands := by
  refine fun op operands => ⟨fun hcount => ?_,
    fun n hn hmem => expandOp_error_of_not_readable (not_readable_number hn) op hmem,
    fun ns n hn hns hmem => expandOp_error_of_not_readable (not_readable_list hn hns) op hmem⟩
  unfold expandOp
  split
  case h_15 => rfl
  all_goals exact absurd rfl hcount

/-- Settles O8. -/
theorem pseudoInstructionsExpand : Obligations.PseudoInstructionsExpand := by
  refine fun c a p => ⟨fun hp => ?_, fun hp => ?_, rfl, rfl, ?_⟩
  · simp only [expandOp, asmByte_toNat, asmPayload_toNat hp]
    exact ⟨rfl, rfl⟩
  · have hlong : asmPayload (.list (p.map BitVec.toNat)) = .error .payloadTooLong :=
      asmPayload_of_length_gt (by simpa using hp)
    simp only [expandOp, asmByte_toNat, hlong]
    exact ⟨rfl, rfl⟩
  · simp only [expandOp, asmByte_toNat]
    rfl

end Sys2Proof.Machine
end

section
/-! PROOF. The commands of LONG presented one after another, and a new frame's first bytes (R76, R78, R130 to R132).
O9, O52. -/

namespace Sys2Proof.Machine

/-- With FAULT = 0 the word of a command is executed as that command, and the words after it are presented to the state it
leaves (R60, R202). -/
theorem presentAll_encode_cons {s t : State} {i : Instr} (hf : s.fault = false) (h : exec i s = .next t)
    (ws : List Word) : presentAll (encode i :: ws) s = presentAll ws t := by
  have hstep : stepWord (encode i) s = .next t := by
    rw [stepWord_running hf, acceptWord_of_decode (decode_encode i), h]
  rw [presentAll, hstep]

/-- Pushes that fit into SB append their bytes in order, whatever is presented after them (R131). -/
theorem presentAll_pushes (p : List Byte) (ws : List Word) (s : State) (hf : s.fault = false)
    (hroom : s.sb.length + p.length ≤ 253) :
    presentAll ((p.map .payloadPush).map encode ++ ws) s =
      presentAll ws { s with sb := s.sb ++ p, pc := s.pc + p.length } := by
  induction p generalizing s with
  | nil => simp
  | cons b p ih =>
    rw [List.length_cons] at hroom
    have hpush : exec (.payloadPush b) s = .next { s with sb := s.sb ++ [b], pc := s.pc + 1 } :=
      execPayloadPush_room (by omega)
    simp only [List.map_cons, List.cons_append]
    rw [presentAll_encode_cons hf hpush, ih]
    · simp [Nat.add_assoc, Nat.add_comm 1]
    · exact hf
    · simp only [List.length_append, List.length_singleton]; omega

/-- Settles O9: the clear empties SB, the pushes stage the payload, and LONG_NEW moves it into FR. -/
theorem pseudoLongBuildsItsFrame : Obligations.PseudoLongBuildsItsFrame := by
  intro c a p s hf hp
  have hclear : exec .payloadClear s = .next { s with sb := [], pc := s.pc + 1 } := rfl
  have hlong : exec (.longNew c a) { s with sb := p, pc := s.pc + 1 + p.length } =
      .next { s with fr := longFrame c a p, sb := [], pc := s.pc + 1 + p.length + 1 } := rfl
  calc presentAll ((expandLong c a p).map encode) s
      = presentAll ((p.map .payloadPush).map encode ++ [encode (.longNew c a)]) { s with sb := [], pc := s.pc + 1 } := by
        rw [expandLong, List.cons_append, List.map_cons, List.map_append, presentAll_encode_cons hf hclear,
          List.map_singleton]
    _ = presentAll [encode (.longNew c a)] { s with sb := p, pc := s.pc + 1 + p.length } :=
        presentAll_pushes p _ { s with sb := [], pc := s.pc + 1 } hf (by simpa using hp)
    _ = .next { s with fr := longFrame c a p, sb := [], pc := s.pc + 1 + p.length + 1 } :=
        presentAll_encode_cons (s := { s with sb := p, pc := s.pc + 1 + p.length }) hf hlong []
    _ = .next { s with fr := longFrame c a p, sb := [], pc := s.pc + (p.length + 2) } := by
        rw [show s.pc + 1 + p.length + 1 = s.pc + (p.length + 2) by omega]

/-- The first bytes of a frame with the invariants of its construction tell its kind and its length (R24, R76): the start
byte is that of the kind, and the length byte of a Long frame counts the payload, the control and the address byte. -/
theorem Constructed.wireShape_ser {fr : FrameReg} (h : Constructed fr) :
    ∃ bytes, ser fr = some bytes ∧ wireShape bytes = some (fr.kind, bytes.length) := by
  obtain ⟨kind, start, length, lengthRepeat, startRepeat, control, address, checksum, stop, payload⟩ := fr
  cases kind with
  | none => exact h.elim
  | ack => exact ⟨_, h, rfl⟩
  | nack => exact ⟨_, h, rfl⟩
  | short =>
    obtain ⟨rfl, -⟩ := h
    exact ⟨_, rfl, rfl⟩
  | long =>
    obtain ⟨rfl, -, -, -, hlength, -⟩ := h
    replace hlength : length.toNat = payload.length + 2 := hlength
    refine ⟨_, rfl, ?_⟩
    show some (Kind.long, length.toNat + 6) = some (Kind.long, _)
    simp [hlength]

/-- Settles O52: ENCODE appends the bytes of the frame as the construction has left it (R24). -/
theorem receiverCanTellKindAndLength : Obligations.ReceiverCanTellKindAndLength := by
  intro i s t u hsb hi ht hu
  have hnew : Constructed t.fr := by
    obtain ⟨t', ht', hframe⟩ := constructionEstablishesTheFrameInvariants.1 i s hsb hi
    obtain rfl := Host.Outcome.next.inj (ht.symm.trans ht')
    exact hframe
  have hkept : t.tx = s.tx := by
    obtain ⟨htx, -⟩ | ⟨rfl, -⟩ := onlyEncodeAddsAFrame i s t ht
    · exact htx
    · simp at hi
  obtain ⟨bytes, hser, hshape⟩ := Constructed.wireShape_ser hnew
  obtain ⟨-, htx⟩ := exec_encode_keeps_frame hser hu
  refine ⟨bytes, hkept ▸ htx, hshape, ?_⟩
  rintro c a rfl
  obtain rfl := complete_eq_next.mp ht
  obtain rfl := Option.some.inj hser
  simp only [State.setStaging_fr, State.setFrame_fr, longFrame, List.length_append, List.length_cons, List.length_nil]
  omega

end Sys2Proof.Machine
end

section
/-! PROOF. The checksum: a sum modulo 256, of the inputs of each kind, in any order (R100, R102). O43, O44. -/

namespace Sys2Proof.Machine

/-- `wadd8` is addition modulo 256 (R100). -/
theorem wadd8_toNat (x y : Byte) : (wadd8 x y).toNat = (x.toNat + y.toNat) % 256 := by
  rw [wadd8, BitVec.toNat_ofNat, Nat.mod_mod]

/-- A last byte is added to the sum of the bytes before it (R100). -/
theorem sum8_append_singleton (l : List Byte) (b : Byte) : sum8 (l ++ [b]) = wadd8 (sum8 l) b :=
  List.foldl_append

/-- The order of the bytes does not enter the checksum: their sum has no order (R102). -/
theorem sum8_eq_of_perm {l m : List Byte} (h : l.Perm m) : sum8 l = sum8 m := by
  have hsum : (l.map BitVec.toNat).sum = (m.map BitVec.toNat).sum := (h.map BitVec.toNat).sum_eq
  apply BitVec.eq_of_toNat_eq
  rw [sum8_toNat, sum8_toNat, hsum]

/-- Settles O43. -/
theorem checksumIsTheSumModulo256 : Obligations.ChecksumIsTheSumModulo256 :=
  ⟨rfl, fun l b => ⟨sum8_append_singleton l b, wadd8_toNat (sum8 l) b⟩, sum8_toNat⟩

/-- Settles O44: each construction stores the checksum of its frame, over the inputs of the kind. -/
theorem checksumInputs : Obligations.ChecksumInputs :=
  ⟨fun _ _ _ => ⟨_, rfl, rfl⟩, fun _ _ _ => ⟨_, rfl, rfl⟩, fun _ _ => sum8_eq_of_perm⟩

end Sys2Proof.Machine
end

section
/-! PROOF. The frame of each completed command, and the Ack and Nack frames: constructed, serialised, and without a field
to write (R110 to R112). O27, O28, O40, O48. -/

namespace Sys2Proof.Machine

/-- Settles O40: a command that leaves FAULT at 0 has completed with its writes and no others. -/
theorem completedCommandFrame : Obligations.CompletedCommandFrame := by
  intro i s t _ h ht
  obtain ⟨u, hu, rfl⟩ := exec_next_completed h ht
  obtain ⟨⟨-, hcause, hfcmd⟩, hprog, -⟩ := hu.keeps_latch_and_issuer
  refine ⟨⟨hcause, hfcmd, hprog⟩, ?_⟩
  cases hu with
  | fieldWrite f v fld selected =>
    obtain ⟨rfl, -⟩ := Kind.selectField_eq_some.mp selected
    exact ⟨rfl, rfl, s.fr.put_kind fld v, s.fr.put_payload fld v,
      fun other hother => s.fr.get_put_of_ne (ne_of_apply_ne FieldName.code hother) v⟩
  | payloadWrite k v index =>
    exact ⟨rfl, rfl, s.fr.putPayload_kind k v, s.fr.putPayload_get k v, fun j hj => List.getElem?_set_ne hj.symm⟩
  | longNew c a => rfl
  | _ => exact ⟨rfl, rfl⟩

/-- A command has one word, its encoding (R73, R75). -/
theorem decode_eq_ok_iff_eq_encode {w : Word} {i : Instr} : decode w = .ok i ↔ w = encode i :=
  ⟨fun h => (encode_of_decode h).symm, fun h => h ▸ decode_encode i⟩

/-- Writing the frame that FR already holds changes nothing (R49). -/
theorem setFrame_of_fr_eq {s : State} {fr : FrameReg} (h : s.fr = fr) : s.setFrame fr = s :=
  h ▸ rfl

/-- Settles O27: ACK_NEW completes with the Ack frame in FR, whatever stood there. -/
theorem ackNewResult : Obligations.AckNewResult :=
  ⟨fun _ => decode_eq_ok_iff_eq_encode, fun _ => ⟨rfl, fun h => congrArg complete (setFrame_of_fr_eq h), rfl, rfl⟩⟩

/-- Settles O28: NACK_NEW completes with the Nack frame in FR, whatever stood there. -/
theorem nackNewResult : Obligations.NackNewResult :=
  ⟨fun _ => decode_eq_ok_iff_eq_encode, fun _ => ⟨rfl, fun h => congrArg complete (setFrame_of_fr_eq h), rfl⟩⟩

/-- A command that completes with a frame in FR and nothing else, and then ENCODE, append the bytes of that frame
(R150, R151). -/
theorem exec_then_encode {i : Instr} {s : State} {fr : FrameReg} {bytes : List Byte}
    (hnew : exec i s = complete (s.setFrame fr)) (hser : ser fr = some bytes) :
    ∃ t u, exec i s = .next t ∧ exec .encode t = .next u ∧ u.tx = s.tx ++ [bytes] :=
  ⟨_, _, hnew, execEncode_some hser, rfl⟩

/-- An Ack or a Nack has no field to write: `valid(kind)` is empty (R112, R160). -/
theorem selectField_of_ack_or_nack {k : Kind} (h : k = .ack ∨ k = .nack) (f : Byte) : k.selectField f = none := by
  rw [Kind.selectField_eq_none]
  rcases h with rfl | rfl <;> simp

/-- Settles O48: a FIELD_WRITE on such a frame can only fault, which leaves FR. -/
theorem ackAndNackOnTheWire : Obligations.AckAndNackOnTheWire := by
  refine fun s => ⟨exec_then_encode (fr := ackFrame) rfl rfl, exec_then_encode (fr := nackFrame) rfl rfl, ?_⟩
  intro f v t hkind h
  have hbad : exec (.fieldWrite f v) s = .next (s.latch .badField (encode (.fieldWrite f v))) :=
    execFieldWrite_invalid (selectField_of_ack_or_nack hkind f)
  obtain rfl := Host.Outcome.next.inj (hbad.symm.trans h)
  exact ⟨rfl, rfl⟩

end Sys2Proof.Machine
end

section
/-! PROOF. The Short frame, and the places of markers and written fields in the bytes of a frame (R120 to R122, R134,
R135). O29, O49, O51. -/

namespace Sys2Proof.Machine

/-- The layout of a Short frame (R121). -/
theorem ser_of_short {fr : FrameReg} (h : fr.kind = .short) :
    ser fr = some [fr.start, fr.control, fr.address, fr.checksum, fr.stop] := by
  simp only [ser, h]

/-- The layout of a Long frame (R134). -/
theorem ser_of_long {fr : FrameReg} (h : fr.kind = .long) :
    ser fr = some ([fr.start, fr.length, fr.lengthRepeat, fr.startRepeat, fr.control, fr.address] ++ fr.payload ++
      [fr.checksum, fr.stop]) := by
  simp only [ser, h]

/-- The checksum of two bytes is their wrapped sum (R100, R120). -/
theorem sum8_pair (c a : Byte) : sum8 [c, a] = c + a := by
  apply BitVec.eq_of_toNat_eq
  simp [sum8_toNat]

/-- Settles O29: SHORT_NEW completes with the Short frame in FR, its checksum the wrapped sum. -/
theorem shortNewResult : Obligations.ShortNewResult := by
  refine fun c a s => ⟨fun _ => decode_eq_ok_iff_eq_encode, ?_, BitVec.toNat_add c a⟩
  rw [← sum8_pair]
  rfl

/-- Settles O49. -/
theorem shortFrameOnTheWire : Obligations.ShortFrameOnTheWire :=
  ⟨fun c a _ => exec_then_encode (fr := shortFrame c a) rfl rfl, fun _ hkind => ⟨_, ser_of_short hkind, rfl, rfl⟩⟩

/-- A field of a frame stands in its bytes, verbatim, at the place that its code gives (R121, R134): the codes 1 to 3 are
no fields of a Short frame, and in a Long frame the payload stands before the checksum and the stop byte. -/
theorem getElem?_ser_field {fr : FrameReg} {fld : FieldName} (h : fr.kind.hasField fld = true) :
    ∃ bytes, ser fr = some bytes ∧
      (fr.kind = .short → bytes[if fld.code = 0 then 0 else fld.code.toNat - 3]? = some (fr.get fld)) ∧
      (fr.kind = .long →
        bytes[if fld.code.toNat ≤ 5 then fld.code.toNat else fld.code.toNat + fr.payload.length]? =
          some (fr.get fld)) := by
  cases hkind : fr.kind with
  | none | ack | nack => simp [hkind, Kind.hasField] at h
  | short =>
    refine ⟨_, ser_of_short hkind, fun _ => ?_, nofun⟩
    cases fld with
    | start | control | address | checksum | stop => rfl
    | length | lengthRepeat | startRepeat => simp [hkind, Kind.hasField] at h
  | long =>
    refine ⟨_, ser_of_long hkind, nofun, fun _ => ?_⟩
    cases fld with
    | checksum | stop => simp [FieldName.code, FrameReg.get, Nat.add_comm _ fr.payload.length]
    | _ => rfl

/-- Settles O51: the constructions store the markers, and a FIELD_WRITE that leaves FAULT at 0 has stored its byte in a
field of the kind; the bytes of the frame show both. -/
theorem markersAndFieldWritesOnTheWire : Obligations.MarkersAndFieldWritesOnTheWire := by
  refine ⟨fun c a s t h => ?_, fun c a s t h => ?_, fun f v s t _ h ht => ?_⟩
  · obtain rfl := complete_eq_next.mp h
    exact ⟨_, rfl, rfl, rfl, rfl⟩
  · obtain rfl := complete_eq_next.mp h
    exact ⟨_, rfl, rfl, rfl, List.getLast?_append_of_ne_nil _ (List.cons_ne_nil _ _), rfl⟩
  · obtain ⟨u, hdone, rfl⟩ := exec_next_completed h ht
    cases hdone with
    | fieldWrite f v fld selected =>
      obtain ⟨rfl, hfield⟩ := Kind.selectField_eq_some.mp selected
      simpa using getElem?_ser_field (fr := s.fr.put fld v) (fld := fld) (by rwa [FrameReg.put_kind])

end Sys2Proof.Machine
end

section
/-! PROOF. Payload staging, LONG_NEW and the bytes of a Long frame (R130 to R134). O30, O31, O32, O50. -/

namespace Sys2Proof.Machine

/-- Writing to SB what it already holds changes nothing (R49). -/
theorem setStaging_of_sb_eq {s : State} {sb : List Byte} (h : s.sb = sb) : s.setStaging sb = s :=
  h ▸ rfl

/-- Settles O30: PAYLOAD_CLEAR completes with an empty SB, whatever stood there. -/
theorem payloadClearResult : Obligations.PayloadClearResult :=
  ⟨fun _ => decode_eq_ok_iff_eq_encode, fun _ => ⟨rfl, fun h => congrArg complete (setStaging_of_sb_eq h)⟩⟩

/-- From an empty SB, pushes within the capacity stage their bytes, whatever is presented after them (R131). -/
theorem presentAll_pushes_of_empty {s : State} (hf : s.fault = false) (hsb : s.sb = []) {bs : List Byte}
    (hroom : bs.length ≤ 253) (ws : List Word) :
    presentAll (bs.map (fun x => encode (.payloadPush x)) ++ ws) s =
      presentAll ws { s with sb := bs, pc := s.pc + bs.length } := by
  simpa [hsb, Function.comp_def] using presentAll_pushes bs ws s hf (by simpa [hsb] using hroom)

/-- Settles O31: 253 staged bytes are exactly the capacity, so the push after them takes the fault of a full SB. -/
theorem payloadPushResult : Obligations.PayloadPushResult := by
  intro b s
  refine ⟨fun _ => decode_eq_ok_iff_eq_encode, execPayloadPush_room, execPayloadPush_full, ?_⟩
  intro bs hf hsb
  refine ⟨fun hroom => ?_, fun hfull => ?_⟩
  · simpa [presentAll] using presentAll_pushes_of_empty hf hsb hroom []
  · rw [List.map_append, presentAll_pushes_of_empty hf hsb hfull.le, hfull]
    exact presentAll_encode_cons (i := .payloadPush b) (s := { s with sb := bs, pc := s.pc + 253 }) hf
      (execPayloadPush_full hfull) []

/-- Settles O32: within the capacity of SB the length byte does not wrap; the checksum is the sum of R100. -/
theorem longNewResult : Obligations.LongNewResult := by
  intro c a s hsb
  refine ⟨fun _ => decode_eq_ok_iff_eq_encode, lengthByte s.sb.length, sum8 ([c, a] ++ s.sb), rfl,
    lengthByte_toNat hsb, ?_⟩
  simp [sum8_toNat, Nat.add_assoc]

/-- After LONG_NEW, ENCODE appends the bytes of the frame that it built (R132, R134, R151). -/
theorem longNew_then_encode (c a : Byte) (s : State) :
    ∃ t u, exec (.longNew c a) s = .next t ∧ exec .encode t = .next u ∧
      u.tx = s.tx ++ [[0x68, lengthByte s.sb.length, lengthByte s.sb.length, 0x68, c, a] ++ s.sb ++
        [sum8 ([c, a] ++ s.sb), 0x16]] :=
  ⟨_, _, rfl,
    execEncode_some (s := { s with fr := longFrame c a s.sb, sb := [], pc := s.pc + 1 }) (ser_of_long rfl), rfl⟩

/-- Settles O50: the payload stands between the six bytes before it and the two after it. -/
theorem longFrameOnTheWire : Obligations.LongFrameOnTheWire := by
  constructor
  · intro fr hkind
    refine ⟨_, ser_of_long hkind, ?_, rfl, rfl, rfl, rfl, rfl, rfl, fun k hk => ?_, ?_, ?_⟩
    · simp only [List.length_append, List.length_cons, List.length_nil]; omega
    · rw [List.append_assoc, List.getElem?_append_right (Nat.le_add_right 6 k)]
      simp [List.getElem?_append_left hk]
    · simp [Nat.add_comm _ fr.payload.length]
    · simp [Nat.add_comm _ fr.payload.length]
  · intro c a s hsb
    obtain ⟨t, u, hlong, hencode, htx⟩ := longNew_then_encode c a s
    exact ⟨lengthByte s.sb.length, t, u, hlong, hencode, lengthByte_toNat hsb, htx⟩

end Sys2Proof.Machine
end

section
/-! PROOF. `ser` kind by kind, and ENCODE (R150, R151). O33, O47. -/

namespace Sys2Proof.Machine

/-- The one byte of an Ack frame (R112). -/
theorem ser_of_ack {fr : FrameReg} (h : fr.kind = .ack) : ser fr = some [0xE5] := by
  simp only [ser, h, Config.ackByte]

/-- The one byte of a Nack frame (R112). -/
theorem ser_of_nack {fr : FrameReg} (h : fr.kind = .nack) : ser fr = some [0xA2] := by
  simp only [ser, h, Config.nackByte]

/-- Settles O47: the layout of each kind, whatever the stored fields hold. -/
theorem serialisationByKind : Obligations.SerialisationByKind :=
  fun _ => ⟨ser_eq_none.mpr, ser_of_ack, ser_of_nack, ser_of_short, ser_of_long⟩

/-- Settles O33: ENCODE faults exactly where `ser` has no bytes; the number of bytes is read off the kind's layout. -/
theorem encodeResult : Obligations.EncodeResult := by
  refine ⟨fun _ => decode_eq_ok_iff_eq_encode, fun s => ⟨fun h => execEncode_none (ser_eq_none.mpr h), fun hne => ?_⟩⟩
  cases hkind : s.fr.kind with
  | none => exact absurd hkind hne
  | ack => exact ⟨_, ser_of_ack hkind, execEncode_some (ser_of_ack hkind), rfl⟩
  | nack => exact ⟨_, ser_of_nack hkind, execEncode_some (ser_of_nack hkind), rfl⟩
  | short => exact ⟨_, ser_of_short hkind, execEncode_some (ser_of_short hkind), rfl⟩
  | long =>
    refine ⟨_, ser_of_long hkind, execEncode_some (ser_of_long hkind), ?_⟩
    simp only [List.length_append, List.length_cons, List.length_nil]
    omega

end Sys2Proof.Machine
end

section
/-! PROOF. FIELD_WRITE and PAYLOAD_WRITE: the one byte they write, their faults, and the derived fields, which nothing
recomputes (R160 to R162). O34, O35, O45. -/

namespace Sys2Proof.Machine

/-- A Long frame has every field, so also each field of a Short frame (R22). -/
theorem Kind.hasField_of_short {k : Kind} {fld : FieldName} (hk : k = .short ∨ k = .long)
    (hfld : Kind.short.hasField fld = true) : k.hasField fld = true := by
  obtain rfl | rfl := hk
  · exact hfld
  · rfl

/-- FIELD_WRITE with the code of a field that the frame has writes that field and completes (R160). -/
theorem execFieldWrite_field {f v : Byte} {s : State} (fld : FieldName) (hfield : s.fr.kind.hasField fld = true)
    (hf : f = fld.code) : execFieldWrite f v s = complete (s.setFrame (s.fr.put fld v)) :=
  execFieldWrite_valid (Kind.selectField_eq_some.mpr ⟨hf, hfield⟩)

/-- The three cases of BAD_FIELD (R160): no field has the code, the frame has no fields, or it is a Short frame and lacks
the field. -/
theorem selectField_eq_none_of_badField {k : Kind} {f : Byte}
    (h : 8 ≤ f.toNat ∨ k = .none ∨ k = .ack ∨ k = .nack ∨ k = .short ∧ (f = 1 ∨ f = 2 ∨ f = 3)) :
    k.selectField f = none := by
  obtain hf | rfl | rfl | rfl | ⟨rfl, rfl | rfl | rfl⟩ := h
  · simp [Kind.selectField, FieldName.ofCode?_eq_none.mpr hf]
  · simp [Kind.selectField_eq_none]
  · exact selectField_of_ack_or_nack (.inl rfl) f
  · exact selectField_of_ack_or_nack (.inr rfl) f
  · rfl
  · rfl
  · rfl

/-- Settles O34: each code writes the field it stands for, in the kinds that have the field. -/
theorem fieldWriteResult : Obligations.FieldWriteResult := by
  intro f v s
  refine ⟨fun _ => decode_eq_ok_iff_eq_encode, fun hkind => ?_, fun hlong => ?_,
    fun hbad => execFieldWrite_invalid (selectField_eq_none_of_badField hbad)⟩
  · have hfield {fld : FieldName} := Kind.hasField_of_short (fld := fld) hkind
    exact ⟨execFieldWrite_field .start (hfield rfl), execFieldWrite_field .control (hfield rfl),
      execFieldWrite_field .address (hfield rfl), execFieldWrite_field .checksum (hfield rfl),
      execFieldWrite_field .stop (hfield rfl)⟩
  · have hfield (fld : FieldName) : s.fr.kind.hasField fld = true := by rw [hlong]; rfl
    exact ⟨execFieldWrite_field .length (hfield _), execFieldWrite_field .lengthRepeat (hfield _),
      execFieldWrite_field .startRepeat (hfield _)⟩

/-- Settles O35: the index check of R161 holds exactly in the first case, and the write is in place. -/
theorem payloadWriteResult : Obligations.PayloadWriteResult := by
  intro k v s
  refine ⟨fun _ => decode_eq_ok_iff_eq_encode, fun hlong hk => ?_, fun hbad => execPayloadWrite_invalid ?_⟩
  · exact ⟨s.fr.payload.set k.toNat v, execPayloadWrite_valid (FrameReg.hasIndex_iff.mpr ⟨hlong, hk⟩),
      List.length_set, List.getElem?_set_self hk, fun j hj => List.getElem?_set_ne hj.symm⟩
  · rw [← Bool.not_eq_true, FrameReg.hasIndex_iff]
    rintro ⟨hlong, hk⟩
    exact hbad.elim (· hlong) hk.not_ge

/-- A command that constructs no frame leaves a scalar field as it was, or is the FIELD_WRITE of that field, with the
value that the field then holds (R160 to R162). -/
theorem exec_keeps_field_or_writes_it {i : Instr} {s t : State} (h : exec i s = .next t)
    (hnew : i ≠ .ackNew ∧ i ≠ .nackNew ∧ (∀ c a, i ≠ .shortNew c a) ∧ ∀ c a, i ≠ .longNew c a) (fld : FieldName) :
    t.fr.get fld = s.fr.get fld ∨ i = .fieldWrite fld.code (t.fr.get fld) := by
  obtain ⟨hack, hnack, hshort, hlong⟩ := hnew
  obtain ⟨u, hdone, rfl⟩ | ⟨c, -, rfl⟩ := exec_next_cases h
  · cases hdone with
    | ackNew => exact absurd rfl hack
    | nackNew => exact absurd rfl hnack
    | shortNew c a => exact absurd rfl (hshort c a)
    | longNew c a => exact absurd rfl (hlong c a)
    | payloadClear | payloadPush | encode => exact .inl rfl
    | payloadWrite k v index => exact .inl (s.fr.putPayload_get k v fld)
    | fieldWrite f v written selected =>
      obtain ⟨rfl, -⟩ := Kind.selectField_eq_some.mp selected
      by_cases hfld : fld = written
      · subst hfld
        exact .inr (congrArg (Instr.fieldWrite fld.code) (s.fr.get_put_same fld v).symm)
      · exact .inl (s.fr.get_put_of_ne hfld v)
  · exact .inl rfl

/-- Settles O45: the three derived fields are scalar fields, and no command treats them otherwise. -/
theorem derivedFieldsAreNeverRecomputed : Obligations.DerivedFieldsAreNeverRecomputed := fun _ _ _ h hnew =>
  have hkept := exec_keeps_field_or_writes_it h hnew
  ⟨hkept .checksum, hkept .length, hkept .lengthRepeat⟩

end Sys2Proof.Machine
end

section
/-! PROOF. The faults: the step's checks in order, the cause table, what a fault writes, the halt, and the idle step
(R200 to R205, R215, R232). O10, O11, O12, O13, O14, O16. -/

namespace Sys2Proof.Machine

/-- A word to which the table of R200 gives a cause is latched with that cause, and nothing else happens (R201). -/
theorem stepWord_of_cause {s : State} {w : Word} {c : Cause} (hf : s.fault = false) (hc : faultCause w s = some c) :
    stepWord w s = .next (s.latch c w) := by
  rw [stepWord_running hf]
  obtain ⟨i, u, hw, hu, -⟩ | ⟨d, hd, hfault⟩ := acceptWord_cases w s
  · rw [hu.faultCause_eq_none hw] at hc
    cases hc
  · obtain rfl := Option.some.inj (hd.symm.trans hc)
    exact hfault

/-- A word to which the table of R200 gives no cause completes its command (R202). -/
theorem stepWord_of_no_cause {s : State} {w : Word} (hf : s.fault = false) (hc : faultCause w s = none) :
    ∃ i u, Completes s i u ∧ stepWord w s = complete u := by
  rw [stepWord_running hf]
  obtain ⟨i, u, -, hu, hdone⟩ | ⟨d, hd, -⟩ := acceptWord_cases w s
  · exact ⟨i, u, hu, hdone⟩
  · rw [hc] at hd
    cases hd

/-- Settles O13: had the table given no cause, the command would have completed and left FAULT at 0. -/
theorem faultIsPrecise : Obligations.FaultIsPrecise := by
  intro s t w hf hstep ht
  cases hc : faultCause w s with
  | none =>
    obtain ⟨hraised, -⟩ := stepWord_faults_by_table hf hstep
    simp [hc, ht] at hraised
  | some c => exact ⟨c, rfl, Host.Outcome.next.inj (hstep.symm.trans (stepWord_of_cause hf hc))⟩

/-- Settles O14: the writes of a completed command leave the latch. -/
theorem faultsFollowTheCauseTable : Obligations.FaultsFollowTheCauseTable := by
  refine ⟨⟨rfl, rfl, rfl, rfl, rfl⟩, fun s w hf => ⟨fun c hc => stepWord_of_cause hf hc, fun hc => ?_⟩⟩
  obtain ⟨i, u, hu, hdone⟩ := stepWord_of_no_cause hf hc
  obtain ⟨⟨hfault, hcause, hfcmd⟩, -⟩ := hu.keeps_latch_and_issuer
  exact ⟨_, hdone, hfault.trans hf, hcause, hfcmd⟩

/-- The machine's step is the block's step on the presented word, halted or not (R45, R202). -/
theorem step_eq_stepWord {s : State} {w : Word} (hw : s.presented = some w) : step s = stepWord w s := by
  cases hf : s.fault with
  | true => rw [step_halted hf, stepWord_halted hf]
  | false => rw [step_presented hf hw, stepWord_running hf]

/-- Settles O10: each check of R202 by its own lemma. -/
theorem stepRunsDecodedCommand : Obligations.StepRunsDecodedCommand :=
  fun s w => ⟨fun hf => stepWord_halted hf w, fun _ hf he => stepWord_illegal hf he,
    fun _ hf hi => (stepWord_running hf w).trans (acceptWord_of_decode hi s), step_eq_stepWord⟩

/-- A word with an assigned opcode that misses the opcode's row has a reserved bit set, and is illegal (R74). -/
theorem decode_of_reserved_bits {w : Word} {i : Instr} (hop : opByte w = i.opcode)
    (hrow : w &&& i.rowMask ≠ i.rowMatch) :
    decode w = .error .reservedBits := by
  have hbits : ¬ i.form.reservedZero (byte1 w) (byte2 w) (byte3 w) = true :=
    fun hzero => hrow (agrees_with_row_iff.mpr ⟨hop, hzero⟩)
  unfold decode
  rw [hop]
  cases i <;> exact if_neg hbits

/-- Settles O11. -/
theorem illegalWordFaults : Obligations.IllegalWordFaults :=
  ⟨fun _ _ _ hf hw he => (step_eq_stepWord hw).trans (stepWord_illegal hf he),
    fun _ _ hop hrow => ⟨_, decode_of_reserved_bits hop hrow⟩⟩

/-- A halted block takes no sequence that has a first word (R204). -/
theorem presentAll_halted {s : State} (h : s.fault = true) (w : Word) (ws : List Word) :
    presentAll (w :: ws) s = .fault .halted := by
  simp [presentAll, stepWord_halted h]

/-- Of the two events, a halted block answers reset only (R204, R230). -/
theorem react_halted {s t : State} {e : Event} (h : s.fault = true) (hreact : react e s = .next t) :
    e = .reset ∧ t = assertReset s := by
  cases e with
  | command w =>
    rw [react, stepWord_halted h] at hreact
    cases hreact
  | reset => exact ⟨rfl, (Host.Outcome.next.inj hreact).symm⟩

/-- STATUS stands at offset 0 and is read in every state (R40, R41). -/
theorem viewRead_status (s : State) : viewRead s 0x000 = statusByte s := rfl

/-- Settles O12: no word, no step and no sequence is taken, and a reset clears FAULT. -/
theorem haltedUntilReset : Obligations.HaltedUntilReset := by
  refine fun s h => ⟨stepWord_halted h, step_halted h, presentAll_halted h, fun e t hreact => ?_, ?_⟩
  · obtain ⟨rfl, rfl⟩ := react_halted h hreact
    exact ⟨rfl, assertReset_fault s⟩
  · rw [viewRead_status, statusByte, if_pos h]

/-- Settles O16: at or past its end the program presents no word. -/
theorem idleWithoutWord : Obligations.IdleWithoutWord :=
  fun _ hf hend => step_idle hf (List.getElem?_eq_none hend)

end Sys2Proof.Machine
end

section
/-! PROOF. Reset: the values it leaves, and that nothing else clears FAULT (R48, R230). O26. -/

namespace Sys2Proof.Machine

/-- Reset leaves the reset value in every register and in the issuer's index, and the program as it was (R48, R230). -/
theorem assertReset_eq (s : State) : assertReset s = { State.reset with prog := s.prog } := rfl

/-- Settles O26: of the two events, a block with FAULT = 1 answers reset only (R204). -/
theorem resetRestoresEveryRegister : Obligations.ResetRestoresEveryRegister := by
  refine fun s => ⟨⟨assertReset s, rfl, ?_⟩, fun e t hf hreact _ => ?_⟩
  · rw [assertReset_eq]
  · obtain ⟨he, -⟩ := react_halted hf hreact
    exact he

end Sys2Proof.Machine
end
